-- ==== Sys2Proof/Word.lean ====
section
/-! DEFINITION. The word types of the block (`10_state.md` R21, R28; `20_memory.md` R50) and the names of its two units. -/

namespace Sys2Proof

/-- A byte on the bus or in a register of 8 bits. -/
abbrev Byte := BitVec 8

/-- A 16-bit value: a wire opcode, a raw field, the status word. -/
abbrev Half := BitVec 16

/-- A 7-bit address of the two-wire bus (R50, R65). -/
abbrev Addr7 := BitVec 7

/-- A value the source calls floating point: an exact rational (R9, D3). -/
abbrev Q := Rat

/-- The two units of the block (R1). -/
inductive UnitId where
  | rf
  | es
deriving DecidableEq, Repr

end Sys2Proof
end

