-- ==== Sys2Proof/Config.lean ====
section
/-! DEFINITION. The implementation parameters of `00_scope.md` R6, and the free values: every
draw of the environment (R14) and every value the spec leaves unspecified. An `opaque` constant
has no body, so nothing in Lean can learn its value. -/

namespace Sys2Proof

/-! Constants the source fixes (R6). -/

/-- `BUS_ADDR` (R27). -/
def Config.busAddr : Addr7 := 0x45#7

/-- `TRIG_TICKS`: the trigger pulse in counter ticks (R114). -/
def Config.trigTicks : Nat := 10

/-- `CRC_INIT` (R160). -/
def Config.crcInit : Byte := 0xFF#8

/-- `CRC_POLY`, 9 bits (R160). -/
def Config.crcPoly : BitVec 9 := 0x131#9

/-- `CM_DIV` (R120). -/
def Config.cmDiv : Q := 29

/-- `IN_PER_CM` (R126). -/
def Config.inPerCm : Q := 3937 / 10000

/-- `T_SCALE` (R178). -/
def Config.tScale : Q := 175

/-- `T_OFFSET` (R178). -/
def Config.tOffset : Q := 45

/-- `H_SCALE` (R179). -/
def Config.hScale : Q := 100

/-- `RAW_MAX` (R178, R179). -/
def Config.rawMax : Q := 65535

/-- The accuracy the source asks of the conversions of `MEASURE`, 1e-6 (R9, D3). -/
def Config.tolerance : Q := 1 / 1000000

/-! Parameters (R6). -/

/-- `NUM_OUT`, the format in which rationals reach the host (R6, R9, D3): exact rationals, or
some finite format. The spec names no finite format, so its rounding is free (log entry 21). -/
inductive NumOut where
  /-- The reference format: the exact rational. -/
  | exact
  /-- A finite format, known only by a number. -/
  | format (k : Nat)
deriving DecidableEq, Repr

/-- A configuration of the block with the constraints of R6 as fields: a configuration that breaks
one is not a configuration of this block (R6, U1), and no value of this type is one. -/
structure Params where
  /-- `T_MAX`. -/
  tMax : Nat
  /-- `ADV_MAX`. -/
  advMax : Nat
  /-- `PERIOD`. -/
  period : Nat
  /-- `RESP_MAX`. -/
  respMax : Nat
  /-- `NUM_OUT`. -/
  numOut : NumOut
  trig_le_tMax : Config.trigTicks ≤ tMax
  no_wrap : tMax + advMax < period
  resp_groups : respMax % 3 = 0
  resp_min : 6 ≤ respMax
deriving DecidableEq, Repr

/-- The configuration with the given values, or none where they break a constraint of R6. -/
def Params.ofValues (tMax advMax period respMax : Nat) (numOut : NumOut) : Option Params :=
  if h : Config.trigTicks ≤ tMax ∧ tMax + advMax < period ∧ respMax % 3 = 0 ∧ 6 ≤ respMax then
    some ⟨tMax, advMax, period, respMax, numOut, h.1, h.2.1, h.2.2.1, h.2.2.2⟩
  else none

/-- `PERIOD` by default (R6). -/
def Config.periodDefault : Nat := 6000000

/-- `RESP_MAX` by default (R6). -/
def Config.respMaxDefault : Nat := 6

/-- `ADV_MAX`'s reference value (R6, R112). -/
def Config.advMaxReference : Nat := 1

/-- FREE VALUE: how far `T_MAX`, which is OPEN, lies above its least legal value (log entry 1). -/
opaque Config.freeTMax : Nat

/-- `T_MAX` of the machine after reset: any value the constraints of R6 allow. -/
def Config.tMax : Nat :=
  Config.trigTicks
    + Config.freeTMax % (Config.periodDefault - Config.advMaxReference - Config.trigTicks)

theorem Config.trig_le_tMax : Config.trigTicks ≤ Config.tMax := Nat.le_add_right _ _

theorem Config.no_wrap : Config.tMax + Config.advMaxReference < Config.periodDefault := by
  have h : Config.freeTMax % 5999989 < 5999989 := Nat.mod_lt _ (by decide)
  simp only [Config.tMax, Config.trigTicks, Config.periodDefault, Config.advMaxReference]
  omega

/-- The configuration of the machine after reset: R6's defaults and reference values, `T_MAX` free
(log entries 1 and 2). -/
def Config.params : Params where
  tMax := Config.tMax
  advMax := Config.advMaxReference
  period := Config.periodDefault
  respMax := Config.respMaxDefault
  numOut := .exact
  trig_le_tMax := Config.trig_le_tMax
  no_wrap := Config.no_wrap
  resp_groups := by decide
  resp_min := by decide

/-! The draws of the environment (R14): draw number `n` of each kind. -/

/-- FREE VALUE: the level of echo sample `n` (R52, U7). -/
opaque Config.freeEcho : Nat → Bool

/-- FREE VALUE: how many draws of 0 ticks come before the `k`-th draw above 0 (R112). -/
opaque Config.freeGap : Nat → Nat

/-- FREE VALUE: by how much the `k`-th draw above 0 exceeds 1 (R112). -/
opaque Config.freeTicks : Nat → Nat

/-- Where tick draw `n` stands: after how many positive draws, and how many zero draws since. -/
def Config.tickPos : Nat → Nat × Nat
  | 0 => (0, 0)
  | n + 1 =>
    if (Config.tickPos n).2 < Config.freeGap (Config.tickPos n).1 then
      ((Config.tickPos n).1, (Config.tickPos n).2 + 1)
    else ((Config.tickPos n).1 + 1, 0)

/-- Tick draw `n` before its bound is applied. Any sequence with infinitely many draws above 0 is
one of these, and no other: the fairness of R112 holds by construction (log entry 8). -/
def Config.freeAdv (n : Nat) : Nat :=
  if (Config.tickPos n).2 < Config.freeGap (Config.tickPos n).1 then 0
  else Config.freeTicks (Config.tickPos n).1 + 1

/-- FREE VALUE: whether `BusWrite` number `n` answers `ok` (R57, U9). -/
opaque Config.freeWriteOk : Nat → Bool

/-- FREE VALUE: whether `BusRead` number `n` answers bytes (R58, U9). -/
opaque Config.freeReadOk : Nat → Bool

/-- FREE VALUE: byte `i` of `BusRead` number `n` (R58, U10). -/
opaque Config.freeReadByte : Nat → Nat → Byte

/-- FREE VALUE: the answer of `BusScan` number `n` (R59, U11). -/
opaque Config.freeScan : Nat → Option (List Addr7)

/-- FREE VALUE: which unit moves at choice number `n` (R12, R68, D24). -/
opaque Config.freeTurn : Nat → Bool

/-! Values of registers the spec leaves unspecified after a step that goes on. -/

/-- FREE VALUE: `CNT` after the counter is stopped (R24, U16; log entry 4). -/
opaque Config.freeCnt : Nat → Nat

/-- FREE VALUE: `RESP[i]` after a failed read (R146; log entry 5). -/
opaque Config.freeResp : Nat → Nat → Byte

/-- FREE VALUE: which group's checksum was computed last (R166, D32; log entry 6). -/
opaque Config.freeGroup : Nat → Nat

/-! `NUM_OUT` in a finite format (D3, U17; log entry 21). -/

/-- FREE VALUE: what finite format `k` holds besides 0, finitely many rationals, since a format has a
width (R32). -/
opaque Config.formatValues : Nat → List Q

/-- FREE VALUE: which of its possible roundings in finite format `k` a rational becomes. -/
opaque Config.freeRound : Nat → Q → Nat

/-- The rationals that finite format `k` holds; 0, the deltas' default (R28), is one. -/
def Config.formatOf (k : Nat) : List Q := 0 :: Config.formatValues k

/-- Whether finite format `k` holds a rational (R99). -/
def Config.representable (k : Nat) (q : Q) : Bool := decide (q ∈ Config.formatOf k)

end Sys2Proof
end

