-- ==== Sys2Proof/Syntax.lean ====
section
/-! DEFINITION. The operations and wire commands of `opcode_table.json`, one constructor a row. -/

namespace Sys2Proof

/-- The eleven host operations (R81, format H) and the six wire commands (R90 to R95, format W). -/
inductive Instr where
  /-- `MEASURE_CM` (R124). -/
  | measureCm
  /-- `MEASURE_IN` (R125). -/
  | measureIn
  /-- `SEND_COMMAND OPA, OPB` (R140). -/
  | sendCommand (opa : Half) (opb : Byte)
  /-- `MEASURE` (R176). -/
  | measure
  /-- `READ_STATUS` (R180). -/
  | readStatus
  /-- `SOFT_RESET` (R181). -/
  | softReset
  /-- `CLEAR_STATUS` (R182). -/
  | clearStatus
  /-- `HEATER_ON` (R183). -/
  | heaterOn
  /-- `HEATER_OFF` (R184). -/
  | heaterOff
  /-- `IS_PRESENT` (R185). -/
  | isPresent
  /-- `SET_CALIBRATION QA, QB` (R186). -/
  | setCalibration (qa qb : Q)
  /-- Wire command `MEAS_HREP_CS` (R90). -/
  | measHrepCs
  /-- Wire command `STATUS` (R91). -/
  | status
  /-- Wire command `SOFT_RESET_CMD` (R92). -/
  | softResetCmd
  /-- Wire command `CLEAR_STATUS_CMD` (R93). -/
  | clearStatusCmd
  /-- Wire command `HEATER_ENABLE` (R94). -/
  | heaterEnable
  /-- Wire command `HEATER_DISABLE` (R95). -/
  | heaterDisable
deriving DecidableEq, Repr

/-- The unit a row belongs to: `HOSTOP[4]` for a host operation (R80); wire commands are ES's (R85). -/
def Instr.unit : Instr → UnitId
  | .measureCm => .rf
  | .measureIn => .rf
  | .sendCommand _ _ => .es
  | .measure => .es
  | .readStatus => .es
  | .softReset => .es
  | .clearStatus => .es
  | .heaterOn => .es
  | .heaterOff => .es
  | .isPresent => .es
  | .setCalibration _ _ => .es
  | .measHrepCs => .es
  | .status => .es
  | .softResetCmd => .es
  | .clearStatusCmd => .es
  | .heaterEnable => .es
  | .heaterDisable => .es

end Sys2Proof
end

