-- ==== Sys2Proof/Decode.lean ====
section
/-! DEFINITION. The host request format H and the wire formats W (`30_encoding.md` R80, R81, R83, R85,
R90 to R96): decoding, total, refusing by name; then the encoder. -/

namespace Sys2Proof

/-- The fields of a request on a host port (R80). The spec gives them widths and no byte layout
(log entry 15). -/
structure HostFields where
  /-- `HOSTOP`: bit 4 the unit, bits 3:0 the function. -/
  hostop : BitVec 5
  /-- `OPA`. -/
  opa : Half
  /-- `OPB`. -/
  opb : Byte
  /-- `QA`. -/
  qa : Q
  /-- `QB`. -/
  qb : Q
deriving DecidableEq, Repr

/-- What an instruction of either format looks like where it is read. -/
inductive Words where
  /-- A request on a host port (format H). -/
  | host (f : HostFields)
  /-- The bytes of a bus write, first byte first (format W). -/
  | wire (bytes : List Byte)
deriving DecidableEq, Repr

/-- Why words are no instruction. -/
inductive DecodeError where
  /-- A reserved host code (R83). -/
  | reservedHostCode (code : BitVec 5)
  /-- Two bytes that are no opcode of the table (R96, R97). -/
  | notInOpcodeMap (opcode : Half)
  /-- Not the two bytes a command frame has (R63, R85). -/
  | notTwoBytes (count : Nat)
deriving DecidableEq, Repr

/-- R81: the operation a request selects; R83: every other code is reserved. Fields the operation does
not use are ignored (R80). -/
def decodeHost (f : HostFields) : Except DecodeError Instr :=
  match f.hostop.toNat with
  | 0x00 => .ok .measureCm
  | 0x01 => .ok .measureIn
  | 0x10 => .ok (.sendCommand f.opa f.opb)
  | 0x11 => .ok .measure
  | 0x12 => .ok .readStatus
  | 0x13 => .ok .softReset
  | 0x14 => .ok .clearStatus
  | 0x15 => .ok .heaterOn
  | 0x16 => .ok .heaterOff
  | 0x17 => .ok .isPresent
  | 0x18 => .ok (.setCalibration f.qa f.qb)
  | _ => .error (.reservedHostCode f.hostop)

/-- R90 to R96: the six wire opcodes, matched on all 16 bits. -/
def decodeOpcode (opcode : Half) : Except DecodeError Instr :=
  match opcode.toNat with
  | 0x2C10 => .ok .measHrepCs
  | 0xF32D => .ok .status
  | 0x30A2 => .ok .softResetCmd
  | 0x3041 => .ok .clearStatusCmd
  | 0x306D => .ok .heaterEnable
  | 0x3066 => .ok .heaterDisable
  | _ => .error (.notInOpcodeMap opcode)

/-- R60, R85: of a command frame the first byte is the opcode's high byte. -/
def decodeWire (bytes : List Byte) : Except DecodeError Instr :=
  match bytes with
  | [hi, lo] => decodeOpcode (hi ++ lo)
  | _ => .error (.notTwoBytes bytes.length)

/-- The instruction that words stand for. -/
def decode (w : Words) : Except DecodeError Instr :=
  match w with
  | .host f => decodeHost f
  | .wire bytes => decodeWire bytes

/-- R60, R85: the bytes of a command frame, high byte first. -/
def wireBytes (opcode : Half) : List Byte :=
  [opcode.extractLsb' 8 8, opcode.extractLsb' 0 8]

/-- A request with the given host code and every operand field zero. -/
def HostFields.ofCode (code : BitVec 5) : HostFields where
  hostop := code
  opa := 0
  opb := 0
  qa := 0
  qb := 0

/-- The words of an instruction (R81, R90 to R95); a field it does not use is zero. -/
def encode (i : Instr) : Words :=
  match i with
  | .measureCm => .host (HostFields.ofCode 0x00#5)
  | .measureIn => .host (HostFields.ofCode 0x01#5)
  | .sendCommand opa opb => .host ⟨0x10#5, opa, opb, 0, 0⟩
  | .measure => .host (HostFields.ofCode 0x11#5)
  | .readStatus => .host (HostFields.ofCode 0x12#5)
  | .softReset => .host (HostFields.ofCode 0x13#5)
  | .clearStatus => .host (HostFields.ofCode 0x14#5)
  | .heaterOn => .host (HostFields.ofCode 0x15#5)
  | .heaterOff => .host (HostFields.ofCode 0x16#5)
  | .isPresent => .host (HostFields.ofCode 0x17#5)
  | .setCalibration qa qb => .host ⟨0x18#5, 0, 0, qa, qb⟩
  | .measHrepCs => .wire (wireBytes 0x2C10#16)
  | .status => .wire (wireBytes 0xF32D#16)
  | .softResetCmd => .wire (wireBytes 0x30A2#16)
  | .clearStatusCmd => .wire (wireBytes 0x3041#16)
  | .heaterEnable => .wire (wireBytes 0x306D#16)
  | .heaterDisable => .wire (wireBytes 0x3066#16)

/-- The words that `opcode_table.json`'s numbering gives: a row of at most 8 bits is a host request
whose `HOSTOP` is bits 4:0 (operand fields zero), a row of 9 to 16 bits a wire opcode sent high byte
first; the table has no wider row (log entry 15). -/
def tableWords (nbits w : Nat) : Option Words :=
  if nbits = 0 then none
  else if nbits ≤ 8 then some (.host (HostFields.ofCode (BitVec.ofNat 5 w)))
  else if nbits ≤ 16 then some (.wire (wireBytes (BitVec.ofNat 16 w)))
  else none

/-- The instruction the decoder reads from table bits. -/
def decodeTableWord (nbits w : Nat) : Option Instr :=
  match tableWords nbits w with
  | some words => (decode words).toOption
  | none => none

end Sys2Proof
end

