-- ==== Sys2Proof/Machine/State.lean ====
section
/-! DEFINITION. The state of the block (`10_state.md` R20 to R35), the event history
(`20_memory.md` R56), what the environment and the host have in store for it (`00_scope.md` R12,
R14), and the state after reset (R35, R250). -/

namespace Sys2Proof.Machine

/-- `RF_FSM` (R21, R22). -/
inductive RfFsm where
  | idle
  | trig
  | waitRise
  | waitFall
deriving DecidableEq, Repr

/-- `RF_OP` (R21). -/
inductive RfOp where
  /-- 0: `MEASURE_CM`. -/
  | cm
  /-- 1: `MEASURE_IN`. -/
  | inch
deriving DecidableEq, Repr

/-- `ES_FSM` (R28, R29). -/
inductive EsFsm where
  | idle
  | sending
  | waitSettle
  | reading
  | validating
deriving DecidableEq, Repr

/-- `ES_OP` (R28): which of the seven operations that perform a transaction is in flight (R141). -/
inductive EsOp where
  | sendCommand
  | measure
  | readStatus
  | softReset
  | clearStatus
  | heaterOn
  | heaterOff
deriving DecidableEq, Repr

/-- `LAST_ERR` (R28, R30), also the outcome of a transaction, `none` being success (R148, R214). -/
inductive LastErr where
  | none
  | bus
  | data
  | crc
deriving DecidableEq, Repr

/-- The status code of a result (R84, R211). -/
inductive Status where
  | ok
  | busError
  | dataError
  | crcError
  | timeout
  | noCapture
deriving DecidableEq, Repr

/-- The payload of a result (R84). -/
inductive Payload where
  /-- No payload. -/
  | nothing
  /-- A distance, of an RF operation. -/
  | distance (d : Q)
  /-- The response bytes in transfer order, of `SEND_COMMAND`. -/
  | bytes (b : List Byte)
  /-- Temperature and humidity, of `MEASURE`: both values, or (none, none). -/
  | pair (t h : Option Q)
  /-- The status word, of `READ_STATUS`. -/
  | word (w : Half)
  /-- Whether the sensor is present, of `IS_PRESENT`. -/
  | bit (b : Bool)
deriving DecidableEq, Repr

/-- What a completing step delivers to the host (R84). -/
structure Result where
  status : Status
  payload : Payload
deriving DecidableEq, Repr

/-- The events of the history (R56). -/
inductive Event where
  /-- `Accept(unit, operation, operands)`. -/
  | accept (u : UnitId) (i : Instr)
  /-- `TRIG` went high. -/
  | trigHigh
  /-- `TRIG` went low. -/
  | trigLow
  /-- `EchoSample(level, cnt)`. -/
  | echoSample (level : Bool) (cnt : Nat)
  /-- `BusWrite(addr, bytes) -> ok | fail`. -/
  | busWrite (addr : Addr7) (bytes : List Byte) (ok : Bool)
  /-- `BusRead(addr, n) -> bytes | fail`. -/
  | busRead (addr : Addr7) (n : Nat) (answer : Option (List Byte))
  /-- `BusScan() -> set | fail`. -/
  | busScan (answer : Option (List Addr7))
  /-- `Complete(unit, result)`. -/
  | complete (u : UnitId) (r : Result)
deriving DecidableEq, Repr

/-- The registers of unit RF (R21). -/
structure RfRegs where
  /-- `RF_FSM`. -/
  fsm : RfFsm
  /-- `RF_OP`. -/
  op : RfOp
  /-- `CNT`. -/
  cnt : Nat
  /-- `CNT_RUN`. -/
  cntRun : Bool
  /-- `START`. -/
  start : Nat
  /-- `START_V`. -/
  startV : Bool
  /-- `END`. -/
  end_ : Nat
  /-- `END_V`. -/
  endV : Bool
  /-- `TRIG`, the level of the trigger output pin (R51). -/
  trig : Bool
deriving DecidableEq, Repr

/-- The registers of unit ES (R28). -/
structure EsRegs where
  /-- `ES_FSM`. -/
  fsm : EsFsm
  /-- `ES_OP`. -/
  op : EsOp
  /-- `OPC`. -/
  opc : Half
  /-- `LEN`. -/
  len : Byte
  /-- `RESP[0 .. RESP_MAX-1]`. -/
  resp : List Byte
  /-- `CRC`. -/
  crc : Byte
  /-- `DELTA_T`. -/
  deltaT : Q
  /-- `DELTA_H`. -/
  deltaH : Q
  /-- `LAST_ERR`. -/
  lastErr : LastErr
deriving DecidableEq, Repr

/-- Draws of one kind (R14): those written down in advance, and how many have been made. A draw
beyond the script is a free value of Config, applied to its number (log entry 7). -/
structure Feed (α : Type) where
  script : List α
  used : Nat
deriving DecidableEq, Repr

/-- A request the host has for a unit: its fields (R80), and whether the host presents it at
once, ready or not (R82, R238), or when the unit is ready (R100, R260) (log entry 12). -/
structure Request where
  fields : HostFields
  atOnce : Bool
deriving DecidableEq, Repr

/-- The other side of the block's interfaces: the draws and the host. No register of the spec. -/
structure Env where
  /-- Levels of the echo input (R52). -/
  echo : Feed Bool
  /-- Ticks elapsed in a step (R112). -/
  ticks : Feed Nat
  /-- Answers of `BusWrite`: true for `ok` (R57). -/
  writes : Feed Bool
  /-- Answers of `BusRead`: the bytes, or none for `fail` (R58). -/
  reads : Feed (Option (List Byte))
  /-- Answers of `BusScan`: the addresses, or none for `fail` (R59). -/
  scans : Feed (Option (List Addr7))
  /-- Which unit moves where both can (R68, D24; log entry 11). -/
  turns : Feed UnitId
  /-- How many free values RF's unspecified register has taken (log entry 4). -/
  rfFree : Nat
  /-- How many free values ES's unspecified registers have taken (log entries 5 and 6). -/
  esFree : Nat
  /-- The host's requests for RF. -/
  rfInbox : List Request
  /-- The host's requests for ES. -/
  esInbox : List Request
  /-- The host applies reset (R252; log entry 19). -/
  resetPin : Bool
deriving DecidableEq, Repr

/-- The state of the block, with its parameters (R6), its history and its environment. -/
structure State where
  cfg : Params
  rf : RfRegs
  es : EsRegs
  /-- The event history, oldest event first (R56). -/
  hist : List Event
  env : Env
deriving DecidableEq, Repr

/-- Why the machine would stop. The spec gives the block no way to stop: its errors end an operation
and leave the unit ready (R213, R222), and a request it does not accept changes nothing (R224). So
there is no fault: nothing raises one. -/
inductive Fault
deriving DecidableEq, Repr

/-- Why an instruction has no meaning. -/
inductive Refusal where
  /-- No meaning is written yet: raised only by a rejected arm of `exec`, of which none is left. Safe:
  the model stops where the hardware goes on. -/
  | notModelled (mnemonic : String)
deriving DecidableEq, Repr

/-- A feed with no script and no draw made. -/
def Feed.fresh {α : Type} : Feed α where
  script := []
  used := 0

/-- The environment before the first step: nothing scripted, no request, reset not applied. -/
def Env.fresh : Env where
  echo := Feed.fresh
  ticks := Feed.fresh
  writes := Feed.fresh
  reads := Feed.fresh
  scans := Feed.fresh
  turns := Feed.fresh
  rfFree := 0
  esFree := 0
  rfInbox := []
  esInbox := []
  resetPin := false

/-- RF after reset (R35); `RF_OP`, `CNT`, `START`, `END` are unspecified there: zero (log entry 3). -/
def RfRegs.reset : RfRegs where
  fsm := .idle
  op := .cm
  cnt := 0
  cntRun := false
  start := 0
  startV := false
  end_ := 0
  endV := false
  trig := false

/-- ES after reset (R35); `ES_OP`, `OPC`, `LEN`, `RESP`, `CRC` are unspecified there: zero
(log entry 3). -/
def EsRegs.reset (p : Params) : EsRegs where
  fsm := .idle
  op := .sendCommand
  opc := 0
  len := 0
  resp := List.replicate p.respMax 0
  crc := 0
  deltaT := 0
  deltaH := 0
  lastErr := .none

/-- The block right after reset in configuration `p` (R35, R250): no event has been issued. -/
def State.resetWith (p : Params) : State where
  cfg := p
  rf := RfRegs.reset
  es := EsRegs.reset p
  hist := []
  env := Env.fresh

/-- The block right after reset (R35, R250). -/
def State.reset : State := State.resetWith Config.params

end Sys2Proof.Machine
end

