-- ==== Sys2Proof/Machine/Flags.lean ====
section
/-! DEFINITION. The error classes and their codes (`30_encoding.md` R84, `60_exceptions.md` R211), the
register encodings of `10_state.md` R21 and R28, the CRC-8 engine and the response validator
(`42_crc8.md` R160, R164, R165), which decide what becomes of `LAST_ERR`. -/

namespace Sys2Proof.Machine

/-! Encodings of the enumerated registers. -/

/-- The 2 bits of `RF_FSM` (R21). -/
def RfFsm.code : RfFsm → BitVec 2
  | .idle => 0
  | .trig => 1
  | .waitRise => 2
  | .waitFall => 3

/-- The bit of `RF_OP`, `HOSTOP[0]` (R21, R113). -/
def RfOp.code : RfOp → BitVec 1
  | .cm => 0
  | .inch => 1

/-- The 3 bits of `ES_FSM` (R28). -/
def EsFsm.code : EsFsm → BitVec 3
  | .idle => 0
  | .sending => 1
  | .waitSettle => 2
  | .reading => 3
  | .validating => 4

/-- The 4 bits of `ES_OP`, `HOSTOP[3:0]` (R28, R141). -/
def EsOp.code : EsOp → BitVec 4
  | .sendCommand => 0
  | .measure => 1
  | .readStatus => 2
  | .softReset => 3
  | .clearStatus => 4
  | .heaterOn => 5
  | .heaterOff => 6

/-- The 2 bits of `LAST_ERR` (R28). -/
def LastErr.code : LastErr → BitVec 2
  | .none => 0
  | .bus => 1
  | .data => 2
  | .crc => 3

/-- Status codes (R84, R211). -/
def Status.code : Status → BitVec 3
  | .ok => 0
  | .busError => 1
  | .dataError => 2
  | .crcError => 3
  | .timeout => 4
  | .noCapture => 5

/-- The status code of a transaction's outcome (R84, R214). -/
def Status.ofOutcome : LastErr → Status
  | .none => .ok
  | .bus => .busError
  | .data => .dataError
  | .crc => .crcError

/-! The CRC-8 engine. -/

/-- One bit step (R160): shift left in 9 bits, xor the polynomial when `c[7]` was 1, keep 8 bits. -/
def crcBit (c : Byte) : Byte :=
  if c.getLsbD 7 then ((c.setWidth 9 <<< 1) ^^^ Config.crcPoly).setWidth 8
  else (c.setWidth 9 <<< 1).setWidth 8

/-- Eight bit steps. -/
def crcBits (c : Byte) : Byte :=
  crcBit (crcBit (crcBit (crcBit (crcBit (crcBit (crcBit (crcBit c)))))))

/-- One byte into the CRC register (R160). -/
def crcByte (c b : Byte) : Byte := crcBits (c ^^^ b)

/-- `crc8(b0, b1)` (R160). -/
def crc8 (b0 b1 : Byte) : Byte := crcByte (crcByte Config.crcInit b0) b1

/-! The validator. -/

/-- `RESP[i]`. -/
def respByte (resp : List Byte) (i : Nat) : Byte := resp.getD i 0

/-- `crc8(RESP[3k], RESP[3k+1])`. -/
def groupCrc (resp : List Byte) (k : Nat) : Byte :=
  crc8 (respByte resp (3 * k)) (respByte resp (3 * k + 1))

/-- `group_ok(k)` (R164). -/
def groupOk (resp : List Byte) (k : Nat) : Bool :=
  groupCrc resp k == respByte resp (3 * k + 2)

/-- Both data bytes of group `k` are zero (R165, line 3). -/
def groupZero (resp : List Byte) (k : Nat) : Bool :=
  respByte resp (3 * k) == 0 && respByte resp (3 * k + 1) == 0

/-- `validate(RESP, n)` (R165): the first line that applies. -/
def validate (resp : List Byte) (n : Nat) : LastErr :=
  if (List.range n).all (fun i => respByte resp i == 0) then .data
  else if (List.range (n / 3)).any (fun k => !groupOk resp k) then .crc
  else if (List.range (n / 3)).all (fun k => groupZero resp k) then .data
  else .none

end Sys2Proof.Machine
end

