-- ==== Sys2Proof/Machine/Operands.lean ====
section
/-! DEFINITION. Operand forms and values: legal operands (`30_encoding.md` R99), field assembly (R87),
the distance functions (`40_rangefinder.md` R120, R126), the conversions of `MEASURE`
(`43_es_derived.md` R178, R179) and the presentation of rationals (`00_scope.md` R9). -/

namespace Sys2Proof.Machine

/-- R99: a legal response length, a multiple of 3 of at most `RESP_MAX`. -/
def lengthLegal (p : Params) (opb : Byte) : Bool :=
  opb.toNat % 3 == 0 && decide (opb.toNat ≤ p.respMax)

/-- R80, R99: a rational that the `NUM_OUT` format holds. -/
def rationalLegal (p : Params) (q : Q) : Bool :=
  match p.numOut with
  | .exact => true
  | .format k => Config.representable k q

/-- R87: `field(k) = (RESP[3k] << 8) | RESP[3k+1]`. -/
def field (resp : List Byte) (k : Nat) : Half :=
  ((resp.getD (3 * k) 0).setWidth 16 <<< 8) ||| (resp.getD (3 * k + 1) 0).setWidth 16

/-- R120: `dist_cm(diff) = (diff / 2) / 29`, both divisions exact. -/
def distCm (diff : Nat) : Q := ((diff : Q) / 2) / Config.cmDiv

/-- R126: `cm_to_in(d) = d * 0.3937`. -/
def cmToIn (d : Q) : Q := d * Config.inPerCm

/-- R178: `T = raw_temp * 175 / 65535 - 45 + DELTA_T`. -/
def temperature (raw : Half) (delta : Q) : Q :=
  (raw.toNat : Q) * Config.tScale / Config.rawMax - Config.tOffset + delta

/-- R179: `H = raw_hum * 100 / 65535 + DELTA_H`. -/
def humidity (raw : Half) (delta : Q) : Q :=
  (raw.toNat : Q) * Config.hScale / Config.rawMax + delta

/-- What the rational `q` may become when it is rounded to a format that holds the rationals of `l`, 0 among
them (D3). Within the format's range: its neighbour below or above, which is `q` itself where the format
holds it. Outside the range the spec states no result: any value of the format that is not on the
other side of 0, so that a distance stays `>= 0` (R123; log entry 21). -/
def roundings (l : List Q) (q : Q) : List Q :=
  if l.all (fun v => decide (q < v)) then l.filter (fun v => decide (v ≤ 0))
  else if l.all (fun v => decide (v < q)) then l.filter (fun v => decide (0 ≤ v))
  else
    l.filter (fun v =>
      (decide (v ≤ q) && l.all (fun w => decide (w ≤ q → w ≤ v))) ||
        (decide (q ≤ v) && l.all (fun w => decide (q ≤ w → v ≤ w))))

/-- Entry `n` of a list that has one, counted round. -/
def pick (l : List Q) (n : Nat) : Q := l.getD (n % l.length) 0

/-- `q` rounded to finite format `k` (D3): one of its roundings, and which one is a free value. -/
def roundTo (k : Nat) (q : Q) : Q := pick (roundings (Config.formatOf k) q) (Config.freeRound k q)

/-- Those of a list that are within 1e-6 of `q` (R9). -/
def withinTolerance (l : List Q) (q : Q) : List Q :=
  l.filter (fun v => decide (v - q ≤ Config.tolerance ∧ q - v ≤ Config.tolerance))

/-- The same for the values of `MEASURE`, for which the source bounds the error by 1e-6 (R9, D3): of the
roundings one that is so near, if there is one. -/
def roundMeasure (k : Nat) (q : Q) : Q :=
  if withinTolerance (roundings (Config.formatOf k) q) q = [] then roundTo k q
  else pick (withinTolerance (roundings (Config.formatOf k) q) q) (Config.freeRound k q)

/-- R9, D3: a rational as the host receives it, the exact value or that value in a finite format. -/
def present (f : NumOut) (q : Q) : Q :=
  match f with
  | .exact => q
  | .format k => roundTo k q

/-- R9, D3: a value of `MEASURE` as the host receives it. -/
def presentMeasure (f : NumOut) (q : Q) : Q :=
  match f with
  | .exact => q
  | .format k => roundMeasure k q

/-- The value an RF operation delivers for a pulse of `diff` ticks (R117, R124, R125). -/
def distanceOf (op : RfOp) (diff : Nat) : Q :=
  match op with
  | .cm => distCm diff
  | .inch => cmToIn (distCm diff)

/-- R59: the set of addresses an answer of `BusScan` names, each once and in rising order
(log entry 10). -/
def addrSet (l : List Addr7) : List Addr7 :=
  ((List.range 128).map (fun n => BitVec.ofNat 7 n)).filter (fun a => l.contains a)

/-- R185: whether the fixed address is in the answer of a scan; a failed scan counts as absent. -/
def presentIn (answer : Option (List Addr7)) : Bool :=
  match answer with
  | some l => l.contains Config.busAddr
  | none => false

end Sys2Proof.Machine
end

