-- ==== Sys2Proof/Machine/Ops.lean ====
section
/-! DEFINITION. The named operations over the state: register writes, the history, the draws of the
environment, the host's inboxes, completing an operation and raising an error class
(`60_exceptions.md` R213), and reset (`70_reset_and_hazards.md` R250, R252). -/

namespace Sys2Proof.Machine

/-! Plain updates. -/

/-- Write the registers of RF. -/
def State.setRf (s : State) (r : RfRegs) : State := { s with rf := r }

/-- Write the registers of ES. -/
def State.setEs (s : State) (r : EsRegs) : State := { s with es := r }

/-- Replace what the environment has in store. -/
def State.setEnv (s : State) (e : Env) : State := { s with env := e }

/-- Record an event (R56). -/
def State.record (s : State) (e : Event) : State := { s with hist := s.hist ++ [e] }

/-! Draws (R14). Each has a value, read before the step, and an update that uses it up. -/

/-- The next draw of a feed: the script's, or the free value of its number. -/
def Feed.draw {α : Type} (f : Feed α) (free : Nat → α) : α :=
  match f.script with
  | a :: _ => a
  | [] => free f.used

/-- The feed after that draw. -/
def Feed.spend {α : Type} (f : Feed α) : Feed α where
  script := f.script.tail
  used := f.used + 1

/-- `sample(ECHO)` (R8, R52). -/
def State.echoDraw (s : State) : Bool := s.env.echo.draw Config.freeEcho

def State.spendEcho (s : State) : State :=
  s.setEnv { s.env with echo := s.env.echo.spend }

/-- `adv()` (R8, R112): a number of ticks from 0 to `ADV_MAX`. -/
def State.advDraw (s : State) : Nat := min (s.env.ticks.draw Config.freeAdv) s.cfg.advMax

def State.spendAdv (s : State) : State :=
  s.setEnv { s.env with ticks := s.env.ticks.spend }

/-- The answer of the next `BusWrite` (R57). -/
def State.writeDraw (s : State) : Bool := s.env.writes.draw Config.freeWriteOk

def State.spendWrite (s : State) : State :=
  s.setEnv { s.env with writes := s.env.writes.spend }

/-- Answer `n` bytes, free, or `fail`, for `BusRead` number `k` (R58). -/
def freeRead (n k : Nat) : Option (List Byte) :=
  if Config.freeReadOk k then some ((List.range n).map (Config.freeReadByte k)) else none

/-- An answer of `BusRead(a, n)` is exactly `n` bytes or `fail`; anything else is `fail` (R58,
log entry 9). -/
def readAnswer (n : Nat) (a : Option (List Byte)) : Option (List Byte) :=
  match a with
  | some d => if d.length = n then some d else none
  | none => none

/-- The answer of the next `BusRead` of `n` bytes (R58). -/
def State.readDraw (s : State) (n : Nat) : Option (List Byte) :=
  readAnswer n (s.env.reads.draw (freeRead n))

def State.spendRead (s : State) : State :=
  s.setEnv { s.env with reads := s.env.reads.spend }

/-- The answer of the next `BusScan` (R59). -/
def State.scanDraw (s : State) : Option (List Addr7) :=
  (s.env.scans.draw Config.freeScan).map addrSet

def State.spendScan (s : State) : State :=
  s.setEnv { s.env with scans := s.env.scans.spend }

/-- Use up one free value of RF's unspecified register. -/
def State.spendRfFree (s : State) : State :=
  s.setEnv { s.env with rfFree := s.env.rfFree + 1 }

/-- Use up one free value of ES's unspecified registers. -/
def State.spendEsFree (s : State) : State :=
  s.setEnv { s.env with esFree := s.env.esFree + 1 }

/-! The units' ready signals and the host's side. -/

/-- `RF_READY` (R82). -/
def State.rfReady (s : State) : Bool := s.rf.fsm == .idle

/-- `ES_READY` (R82). -/
def State.esReady (s : State) : Bool := s.es.fsm == .idle

/-- The ready signal of a unit. -/
def State.ready (s : State) (u : UnitId) : Bool :=
  match u with
  | .rf => s.rfReady
  | .es => s.esReady

/-- The requests the host has for a unit. -/
def State.inbox (s : State) (u : UnitId) : List Request :=
  match u with
  | .rf => s.env.rfInbox
  | .es => s.env.esInbox

/-- Replace them. -/
def State.setInbox (s : State) (u : UnitId) (l : List Request) : State :=
  match u with
  | .rf => s.setEnv { s.env with rfInbox := l }
  | .es => s.setEnv { s.env with esInbox := l }

/-- The request on a unit's port now: the host's next one, if the unit is ready or the host
presents it without waiting (R82, R238). -/
def State.presented (s : State) (u : UnitId) : Option Request :=
  match s.inbox u with
  | r :: _ => if s.ready u || r.atOnce then some r else none
  | [] => none

/-- The host withdraws the request once the port has dealt with it, accepted or not: the block has
no queue (R82). -/
def State.withdraw (s : State) (u : UnitId) : State := s.setInbox u (s.inbox u).tail

/-- The level of the trigger output pin (R51). -/
def State.trigPin (s : State) : Bool := s.rf.trig

/-- What the host reads as `LAST_ERR`, at any time (R28, R238). -/
def State.hostLastErr (s : State) : LastErr := s.es.lastErr

/-- The result an event delivers to the host of unit `u`. -/
def Event.resultFor (u : UnitId) (e : Event) : Option Result :=
  match e with
  | .complete v r => if u = v then some r else none
  | _ => none

/-- The result most recently delivered by a unit (R84, R238). -/
def State.lastResult (s : State) (u : UnitId) : Option Result :=
  (s.hist.filterMap (Event.resultFor u)).getLast?

/-- The unit an event belongs to (R56, R67). -/
def Event.unit (e : Event) : UnitId :=
  match e with
  | .accept u _ => u
  | .trigHigh => .rf
  | .trigLow => .rf
  | .echoSample _ _ => .rf
  | .busWrite _ _ _ => .es
  | .busRead _ _ _ => .es
  | .busScan _ => .es
  | .complete u _ => u

/-- The history of one unit (R67, R68). -/
def State.unitHist (s : State) (u : UnitId) : List Event :=
  s.hist.filter (fun e => e.unit == u)

/-! Results (R84, R148). -/

/-- The result of an operation that succeeds, from ES's registers (R140, R176, R180, R181). -/
def okResult (p : Params) (r : EsRegs) : Result where
  status := .ok
  payload :=
    match r.op with
    | .sendCommand => .bytes (r.resp.take r.len.toNat)
    | .measure =>
      .pair (some (presentMeasure p.numOut (temperature (field r.resp 0) r.deltaT)))
        (some (presentMeasure p.numOut (humidity (field r.resp 1) r.deltaH)))
    | .readStatus => .word (field r.resp 0)
    | .softReset => .nothing
    | .clearStatus => .nothing
    | .heaterOn => .nothing
    | .heaterOff => .nothing

/-- The payload of an ES operation that ends in error (R213): none; for `MEASURE` the pair (none, none)
(R176). -/
def errorPayload (op : EsOp) : Payload :=
  match op with
  | .sendCommand => .nothing
  | .measure => .pair none none
  | .readStatus => .nothing
  | .softReset => .nothing
  | .clearStatus => .nothing
  | .heaterOn => .nothing
  | .heaterOff => .nothing

/-- `LAST_ERR` after an ES operation raised `e` (R213); no other class belongs to ES (R211). -/
def LastErr.raised (old : LastErr) (e : Status) : LastErr :=
  match e with
  | .busError => .bus
  | .dataError => .data
  | .crcError => .crc
  | .ok => old
  | .timeout => old
  | .noCapture => old

/-! Completing and raising. -/

/-- `CNT` once the counter is stopped: unspecified, within its range (R24, U16; log entry 4). -/
def State.stoppedCnt (s : State) : Nat := Config.freeCnt s.env.rfFree % s.cfg.period

/-- The completing step's part that every ending shares: sequencer idle, result delivered, and in RF
the counter stopped (R119, R148). -/
def State.complete (s : State) (u : UnitId) (r : Result) : State :=
  match u with
  | .rf =>
    ((s.setRf { s.rf with fsm := .idle, cntRun := false, cnt := s.stoppedCnt }).spendRfFree).record
      (.complete .rf r)
  | .es => (s.setEs { s.es with fsm := .idle }).record (.complete .es r)

/-- `raise E` (R213), the one way an operation ends in error: in ES `LAST_ERR <- E`; then the
completing step with status `E` and no data. There is no return operation (R223): the next
transaction clears `LAST_ERR` at its acceptance (R141). -/
def State.raise (s : State) (u : UnitId) (e : Status) : State :=
  match u with
  | .rf => s.complete .rf ⟨e, .nothing⟩
  | .es =>
    (s.setEs { s.es with lastErr := s.es.lastErr.raised e }).complete .es
      ⟨e, errorPayload s.es.op⟩

/-- `finish(outcome, bytes)` of an ES transaction (R148): success leaves `LAST_ERR` as it is. -/
def State.finish (s : State) (o : LastErr) : State :=
  match o with
  | .none => s.complete .es (okResult s.cfg s.es)
  | .bus => s.raise .es .busError
  | .data => s.raise .es .dataError
  | .crc => s.raise .es .crcError

/-- Reset (R250 to R252): both units, an operation in flight abandoned, no event; the history and the
world outside stay as they are (log entry 19). -/
def State.applyReset (s : State) : State where
  cfg := s.cfg
  rf := RfRegs.reset
  es := EsRegs.reset s.cfg
  hist := s.hist
  env := { s.env with resetPin := false }

/-! Whose step it is. -/

/-- Whether a unit has anything to do: an operation in flight, or a request on its port. -/
def State.canMove (s : State) (u : UnitId) : Bool := !s.ready u || (s.presented u).isSome

/-- Both units could move, so the environment chooses (R68, D24). -/
def State.needsTurn (s : State) : Bool := s.canMove .rf && s.canMove .es

/-- Free choice number `n`. -/
def freeTurn (n : Nat) : UnitId := if Config.freeTurn n then .rf else .es

/-- The unit that takes the next step, if either has one to take. -/
def State.mover (s : State) : Option UnitId :=
  if s.canMove .rf then
    if s.canMove .es then some (s.env.turns.draw freeTurn) else some .rf
  else if s.canMove .es then some .es
  else none

/-- The state with that choice used up, where one was needed. -/
def State.spendTurn (s : State) : State :=
  if s.needsTurn then s.setEnv { s.env with turns := s.env.turns.spend } else s

end Sys2Proof.Machine
end

