-- ==== Sys2Proof/Machine/Framer.lean ====
section
/-! DEFINITION. Unit ES (`41_framer.md`): the steps of a transaction, which every operation with a wire
command shares (R175), and the meaning of `SEND_COMMAND`. -/

namespace Sys2Proof.Machine

/-- The acceptance step (R141). -/
def State.esAccept (s : State) (i : Instr) (op : EsOp) (opc : Half) (len : Byte) : State :=
  (s.setEs { s.es with
    op := op, opc := opc, len := len, lastErr := .none, fsm := .sending }).record (.accept .es i)

/-- A request for a transaction on ES's port: accepted if ES is ready and its operands are legal, else
nothing happens (R82, R99, R224); either way the host withdraws it. -/
def State.esRequest (s : State) (legal : Bool) (i : Instr) (op : EsOp) (opc : Half) (len : Byte) :
    State :=
  if s.esReady && legal then (s.withdraw .es).esAccept i op opc len else s.withdraw .es

/-- `SEND_COMMAND OPA, OPB` (R140). -/
def execSendCommand (opa : Half) (opb : Byte) (s : State) : Host.Outcome State Fault Refusal :=
  .next (s.esRequest (lengthLegal s.cfg opb) (.sendCommand opa opb) .sendCommand opa opb)

/-- The sending step (R142, R143): one command frame (R85) holding `OPC`, whatever it is (R97). -/
def State.esSend (s : State) : State :=
  if s.writeDraw then
    if s.es.len = 0 then
      ((s.spendWrite).record (.busWrite Config.busAddr (wireBytes s.es.opc) true)).finish .none
    else
      ((s.setEs { s.es with fsm := .waitSettle }).spendWrite).record
        (.busWrite Config.busAddr (wireBytes s.es.opc) true)
  else ((s.spendWrite).record (.busWrite Config.busAddr (wireBytes s.es.opc) false)).finish .bus

/-- The settle step (R144): one untimed step (log entry 24). -/
def State.esSettle (s : State) : State := s.setEs { s.es with fsm := .reading }

/-- The response buffer with the bytes `d` read into its first places (R145). -/
def writeResp (resp d : List Byte) : List Byte := d ++ resp.drop d.length

/-- The response buffer after a failed read: unspecified bytes (R146; log entry 5). -/
def State.lostResp (s : State) : List Byte :=
  (List.range s.es.resp.length).map (Config.freeResp s.env.esFree)

/-- The reading step (R145, R146). -/
def State.esRead (s : State) : State :=
  match s.readDraw s.es.len.toNat with
  | some d =>
    ((s.setEs { s.es with resp := writeResp s.es.resp d, fsm := .validating }).spendRead).record
      (.busRead Config.busAddr s.es.len.toNat (some d))
  | none =>
    ((((s.setEs { s.es with resp := s.lostResp }).spendEsFree).spendRead).record
      (.busRead Config.busAddr s.es.len.toNat none)).finish .bus

/-- `CRC` after validation: the checksum of the group checked last; the order is not given (R166, D32;
log entry 6). -/
def State.lastCrc (s : State) : Byte :=
  groupCrc s.es.resp (Config.freeGroup s.env.esFree % (s.es.len.toNat / 3))

/-- The validating step (R147, R166). -/
def State.esValidate (s : State) : State :=
  ((s.setEs { s.es with crc := s.lastCrc }).spendEsFree).finish (validate s.es.resp s.es.len.toNat)

/-- The next step of the transaction in flight (R149); an idle unit waits with all registers held
(R237). -/
def State.esStep (s : State) : State :=
  match s.es.fsm with
  | .idle => s
  | .sending => s.esSend
  | .waitSettle => s.esSettle
  | .reading => s.esRead
  | .validating => s.esValidate

end Sys2Proof.Machine
end

