-- ==== Sys2Proof/Machine/Derived.lean ====
section
/-! DEFINITION. The derived operations of ES (`43_es_derived.md`): those that expand to a transaction
(R101, R175), and `IS_PRESENT` and `SET_CALIBRATION`, which perform none. -/

namespace Sys2Proof.Machine

/-- `MEASURE` (R176): wire opcode 2C 10, 6 response bytes (R90). -/
def execMeasure (s : State) : Host.Outcome State Fault Refusal :=
  .next (s.esRequest true .measure .measure 0x2C10#16 6#8)

/-- `READ_STATUS` (R180): wire opcode F3 2D, 3 response bytes (R91). -/
def execReadStatus (s : State) : Host.Outcome State Fault Refusal :=
  .next (s.esRequest true .readStatus .readStatus 0xF32D#16 3#8)

/-- `SOFT_RESET` (R181): wire opcode 30 A2, no response (R92). -/
def execSoftReset (s : State) : Host.Outcome State Fault Refusal :=
  .next (s.esRequest true .softReset .softReset 0x30A2#16 0#8)

/-- `CLEAR_STATUS` (R182): wire opcode 30 41, no response (R93). -/
def execClearStatus (s : State) : Host.Outcome State Fault Refusal :=
  .next (s.esRequest true .clearStatus .clearStatus 0x3041#16 0#8)

/-- `HEATER_ON` (R183): wire opcode 30 6D, no response (R94). -/
def execHeaterOn (s : State) : Host.Outcome State Fault Refusal :=
  .next (s.esRequest true .heaterOn .heaterOn 0x306D#16 0#8)

/-- `HEATER_OFF` (R184): wire opcode 30 66, no response (R95). -/
def execHeaterOff (s : State) : Host.Outcome State Fault Refusal :=
  .next (s.esRequest true .heaterOff .heaterOff 0x3066#16 0#8)

/-- The one step of `IS_PRESENT` (R185). -/
def State.esScan (s : State) : State :=
  (((s.spendScan).record (.accept .es .isPresent)).record (.busScan s.scanDraw)).complete .es
    ⟨.ok, .bit (presentIn s.scanDraw)⟩

/-- `IS_PRESENT` (R185), if ES is ready (R82). -/
def execIsPresent (s : State) : Host.Outcome State Fault Refusal :=
  .next (if s.esReady then (s.withdraw .es).esScan else s.withdraw .es)

/-- The one step of `SET_CALIBRATION` (R186). -/
def State.esCalibrate (s : State) (qa qb : Q) : State :=
  ((s.setEs { s.es with deltaT := qa, deltaH := qb }).record
    (.accept .es (.setCalibration qa qb))).complete .es ⟨.ok, .nothing⟩

/-- `SET_CALIBRATION QA, QB` (R186), if ES is ready and the operands are rationals of the format
(R82, R99). -/
def execSetCalibration (qa qb : Q) (s : State) : Host.Outcome State Fault Refusal :=
  .next
    (if s.esReady && (rationalLegal s.cfg qa && rationalLegal s.cfg qb) then
      (s.withdraw .es).esCalibrate qa qb
    else s.withdraw .es)

end Sys2Proof.Machine
end

