-- ==== Sys2Proof/Machine/RangeFinder.lean ====
section
/-! DEFINITION. Unit RF (`40_rangefinder.md`): the acceptance step, which is the meaning of `MEASURE_CM`
and `MEASURE_IN`, and the steps that follow it until the operation completes. -/

namespace Sys2Proof.Machine

/-- `CNT` after `k` more ticks (R24, R112). -/
def State.cntPlus (s : State) (k : Nat) : Nat := (s.rf.cnt + k) % s.cfg.period

/-- The acceptance step (R113). -/
def State.rfAccept (s : State) (i : Instr) (op : RfOp) : State :=
  ((s.setRf { s.rf with
      op := op, cnt := 0, cntRun := true, startV := false, endV := false, trig := true,
      fsm := .trig }).record (.accept .rf i)).record .trigHigh

/-- A request for RF on its port: accepted if RF is ready, else nothing happens (R82); either way
the host withdraws it. -/
def State.rfRequest (s : State) (i : Instr) (op : RfOp) : State :=
  if s.rfReady then (s.withdraw .rf).rfAccept i op else s.withdraw .rf

/-- `MEASURE_CM` (R124). -/
def execMeasureCm (s : State) : Host.Outcome State Fault Refusal :=
  .next (s.rfRequest .measureCm .cm)

/-- `MEASURE_IN` (R125). -/
def execMeasureIn (s : State) : Host.Outcome State Fault Refusal :=
  .next (s.rfRequest .measureIn .inch)

/-- The trigger step (R114). -/
def State.rfTrigger (s : State) : State :=
  ((s.setRf { s.rf with
      cnt := s.cntPlus (Config.trigTicks + s.advDraw), trig := false,
      fsm := .waitRise }).spendAdv).record .trigLow

/-- A poll step of the first loop (R115, R118). -/
def State.rfPollRise (s : State) : State :=
  if s.cfg.tMax < s.rf.cnt then s.raise .rf .timeout
  else if s.echoDraw then
    (((s.setRf { s.rf with
        fsm := .waitFall, cnt := s.cntPlus s.advDraw }).spendEcho).spendAdv).record
      (.echoSample true s.rf.cnt)
  else
    (((s.setRf { s.rf with
        start := s.rf.cnt, startV := true, cnt := s.cntPlus s.advDraw }).spendEcho).spendAdv).record
      (.echoSample false s.rf.cnt)

/-- The finish (R117, R122). `END >= START` in every state a run reaches (R121); elsewhere the
difference is taken as zero (log entry 28). -/
def State.rfFinish (s : State) : State :=
  if s.rf.startV && s.rf.endV then
    s.complete .rf
      ⟨.ok, .distance (present s.cfg.numOut (distanceOf s.rf.op (s.rf.end_ - s.rf.start)))⟩
  else s.raise .rf .noCapture

/-- A poll step of the second loop (R116, R118). -/
def State.rfPollFall (s : State) : State :=
  if s.cfg.tMax < s.rf.cnt then s.raise .rf .timeout
  else if s.echoDraw then
    (((s.setRf { s.rf with
        end_ := s.rf.cnt, endV := true, cnt := s.cntPlus s.advDraw }).spendEcho).spendAdv).record
      (.echoSample true s.rf.cnt)
  else ((s.spendEcho).record (.echoSample false s.rf.cnt)).rfFinish

/-- The next step of the operation in flight; an idle unit waits with all registers held (R237). -/
def State.rfStep (s : State) : State :=
  match s.rf.fsm with
  | .idle => s
  | .trig => s.rfTrigger
  | .waitRise => s.rfPollRise
  | .waitFall => s.rfPollFall

end Sys2Proof.Machine
end

