-- ==== Sys2Proof/Machine/WireCommands.lean ====
section
/-! DEFINITION. The wire commands (`30_encoding.md` R85, R90 to R95): what ES puts on the bus in the
sending step of the transaction in flight (R142, R143). -/

namespace Sys2Proof.Machine

/-- ES sends the wire command `opcode` when it is the one in flight (`OPC`) and ES is in its sending
step; at any other time ES sends nothing (R149, log entry 17). -/
def State.sendWire (s : State) (opcode : Half) : State :=
  if s.es.fsm = .sending ∧ s.es.opc = opcode then s.esSend else s

/-- `MEAS_HREP_CS`, 2C 10 (R90). -/
def execMeasHrepCs (s : State) : Host.Outcome State Fault Refusal := .next (s.sendWire 0x2C10#16)

/-- `STATUS`, F3 2D (R91). -/
def execStatus (s : State) : Host.Outcome State Fault Refusal := .next (s.sendWire 0xF32D#16)

/-- `SOFT_RESET_CMD`, 30 A2 (R92). -/
def execSoftResetCmd (s : State) : Host.Outcome State Fault Refusal := .next (s.sendWire 0x30A2#16)

/-- `CLEAR_STATUS_CMD`, 30 41 (R93). -/
def execClearStatusCmd (s : State) : Host.Outcome State Fault Refusal :=
  .next (s.sendWire 0x3041#16)

/-- `HEATER_ENABLE`, 30 6D (R94). -/
def execHeaterEnable (s : State) : Host.Outcome State Fault Refusal := .next (s.sendWire 0x306D#16)

/-- `HEATER_DISABLE`, 30 66 (R95). -/
def execHeaterDisable (s : State) : Host.Outcome State Fault Refusal := .next (s.sendWire 0x3066#16)

end Sys2Proof.Machine
end

