-- ==== Sys2Proof/Machine/Dispatch.lean ====
section
/-! DEFINITION. One arm for each constructor of Instr. -/

namespace Sys2Proof.Machine

def exec (i : Instr) (s : State) : Host.Outcome State Fault Refusal :=
  match i with
  | .measureCm => Sys2Proof.Machine.execMeasureCm s
  | .measureIn => Sys2Proof.Machine.execMeasureIn s
  | .sendCommand opa opb => Sys2Proof.Machine.execSendCommand opa opb s
  | .measure => Sys2Proof.Machine.execMeasure s
  | .readStatus => Sys2Proof.Machine.execReadStatus s
  | .softReset => Sys2Proof.Machine.execSoftReset s
  | .clearStatus => Sys2Proof.Machine.execClearStatus s
  | .heaterOn => Sys2Proof.Machine.execHeaterOn s
  | .heaterOff => Sys2Proof.Machine.execHeaterOff s
  | .isPresent => Sys2Proof.Machine.execIsPresent s
  | .setCalibration qa qb => Sys2Proof.Machine.execSetCalibration qa qb s
  | .measHrepCs => Sys2Proof.Machine.execMeasHrepCs s
  | .status => Sys2Proof.Machine.execStatus s
  | .softResetCmd => Sys2Proof.Machine.execSoftResetCmd s
  | .clearStatusCmd => Sys2Proof.Machine.execClearStatusCmd s
  | .heaterEnable => Sys2Proof.Machine.execHeaterEnable s
  | .heaterDisable => Sys2Proof.Machine.execHeaterDisable s

end Sys2Proof.Machine
end

