-- ==== Sys2Proof/Machine/Run.lean ====
section
/-! DEFINITION. What the unit whose turn it is does: the request on its port, decoded and executed, or
the next step of the operation in flight. Also where `withFetchWord` places an instruction. -/

namespace Sys2Proof.Machine

/-- A request on unit `u`'s port. It is dealt with if it decodes to an operation of that unit; a
reserved code, or a code of the other unit, is not accepted and nothing happens (R82, R83, R224). -/
def runRequest (u : UnitId) (r : Request) (s : State) : Host.Outcome State Fault Refusal :=
  match decodeHost r.fields with
  | .ok i => if i.unit = u then exec i s else .next (s.withdraw u)
  | .error _ => .next (s.withdraw u)

/-- ES's sending step puts `OPC` on the bus: a wire command of the table, or any other opcode, which
the block writes as given (R97). -/
def runSending (s : State) : Host.Outcome State Fault Refusal :=
  match decodeWire (wireBytes s.es.opc) with
  | .ok i => exec i s
  | .error _ => .next s.esSend

/-- A step of RF. -/
def runRf (s : State) : Host.Outcome State Fault Refusal :=
  match s.presented .rf with
  | some r => runRequest .rf r s
  | none => .next s.rfStep

/-- A step of ES. -/
def runEs (s : State) : Host.Outcome State Fault Refusal :=
  match s.presented .es with
  | some r => runRequest .es r s
  | none => if s.es.fsm = .sending then runSending s else .next s.esStep

/-- A step of the block: reset if it is applied (R252); else one unit's step (R8, R11, D24); with
nothing to do both units wait with all registers held (R237, log entry 26). -/
def runBlock (s : State) : Host.Outcome State Fault Refusal :=
  if s.env.resetPin then .next s.applyReset
  else
    match s.mover with
    | some .rf => runRf s.spendTurn
    | some .es => runEs s.spendTurn
    | none => .next s

/-! Placing an instruction where the next step runs it. -/

/-- The other unit. -/
def otherUnit (u : UnitId) : UnitId :=
  match u with
  | .rf => .es
  | .es => .rf

/-- Let unit `u` have the next move, if the other could move too. -/
def State.giveTurn (s : State) (u : UnitId) : State :=
  if s.canMove (otherUnit u) then
    s.setEnv { s.env with turns := { s.env.turns with script := u :: s.env.turns.script } }
  else s

/-- Reset is not applied. -/
def State.releaseReset (s : State) : State := s.setEnv { s.env with resetPin := false }

/-- A request the host presents at once on the port of the unit its code names. -/
def State.placeRequest (s : State) (f : HostFields) : State :=
  let u : UnitId := if f.hostop.getLsbD 4 then .es else .rf
  ((s.releaseReset).setInbox u (⟨f, true⟩ :: s.inbox u)).giveTurn u

/-- The transaction that carries a table opcode: the operation of R101 that uses it, and its response
length (R90 to R95). For other opcodes, a `SEND_COMMAND` that asks for no response. -/
def carrier (opcode : Half) : EsOp × Byte :=
  match opcode.toNat with
  | 0x2C10 => (.measure, 6#8)
  | 0xF32D => (.readStatus, 3#8)
  | 0x30A2 => (.softReset, 0#8)
  | 0x3041 => (.clearStatus, 0#8)
  | 0x306D => (.heaterOn, 0#8)
  | 0x3066 => (.heaterOff, 0#8)
  | _ => (.sendCommand, 0#8)

/-- ES at the start of its sending step with that transaction in flight, as its acceptance leaves
it (R141), and no request on ES's port. -/
def State.placeWire (s : State) (opcode : Half) : State :=
  (((s.releaseReset).setInbox .es (s.env.esInbox.dropWhile (fun r => r.atOnce))).setEs
    { s.es with
      fsm := .sending, op := (carrier opcode).1, opc := opcode, len := (carrier opcode).2,
      lastErr := .none }).giveTurn .es

/-- Place words. -/
def State.placeWords (s : State) (w : Words) : State :=
  match w with
  | .host f => s.placeRequest f
  | .wire [hi, lo] => s.placeWire (hi ++ lo)
  | .wire _ => s

end Sys2Proof.Machine
end

