-- ==== Sys2Proof/Machine/Step.lean ====
section
/-! DEFINITION. One step of the block, and where an instruction is placed for it to run. -/

namespace Sys2Proof.Machine

/-- One step (R8, R11): see `runBlock`. -/
def step (s : State) : Host.Outcome State Fault Refusal := runBlock s

/-- `s` with the instruction of the given table bits where the next step runs it: a host request on its
unit's port, or a wire command in ES's sending step (log entry 18). -/
def State.withFetchWord (s : State) (nbits w : Nat) : State :=
  match tableWords nbits w with
  | some words => s.placeWords words
  | none => s

end Sys2Proof.Machine
end

