-- ==== Sys2Proof/Safety.lean ====
section
/-! DEFINITION. What counts as a well-kept state: the ranges and the invariants the spec states of the
registers (`10_state.md` R21, R22, R24, R28, R30, R33; `40_rangefinder.md` R121; `41_framer.md` R150).
Claims use them as premises. -/

namespace Sys2Proof.Machine

/-- The counter registers stay within their width: `0 <= CNT < PERIOD`, and `START`, `END` likewise
(R21). -/
def RfRegs.InRange (p : Params) (r : RfRegs) : Prop :=
  r.cnt < p.period ∧ r.start < p.period ∧ r.end_ < p.period

/-- `CNT_RUN` is 1 exactly while an operation is in flight, and `TRIG` is high exactly during the trigger
phase (R21, R22, R24). -/
def RfRegs.PhaseBits (r : RfRegs) : Prop :=
  (r.cntRun = true ↔ r.fsm ≠ .idle) ∧ (r.trig = true ↔ r.fsm = .trig)

/-- In the trigger phase nothing is captured and the counter stands at zero; while a loop polls, the
counter has not passed `T_MAX + ADV_MAX`, what is captured lies behind it, and `START <= END` (R113,
R121). -/
def RfRegs.Captures (p : Params) (r : RfRegs) : Prop :=
  match r.fsm with
  | .idle => True
  | .trig => r.cnt = 0 ∧ r.startV = false ∧ r.endV = false
  | .waitRise =>
    r.cnt ≤ p.tMax + p.advMax ∧ r.endV = false ∧ (r.startV = true → r.start ≤ r.cnt)
  | .waitFall =>
    r.cnt ≤ p.tMax + p.advMax ∧ (r.startV = true → r.start ≤ r.cnt)
      ∧ (r.endV = true → r.end_ ≤ r.cnt)
      ∧ (r.startV = true → r.endV = true → r.start ≤ r.end_)

/-- Unit RF is well kept. -/
def RfRegs.Kept (p : Params) (r : RfRegs) : Prop :=
  r.InRange p ∧ r.PhaseBits ∧ r.Captures p

/-- The response buffer has `RESP_MAX` bytes (R28). -/
def EsRegs.BufferSized (p : Params) (r : EsRegs) : Prop := r.resp.length = p.respMax

/-- While a transaction is in flight `LAST_ERR` is `NONE` (R30, U23). -/
def EsRegs.ErrClear (r : EsRegs) : Prop := r.fsm ≠ .idle → r.lastErr = .none

/-- While a transaction is in flight `LEN` is a legal length, and beyond the sending step it is not zero
(R63, R99, R142). -/
def EsRegs.LengthKept (p : Params) (r : EsRegs) : Prop :=
  (r.fsm ≠ .idle → lengthLegal p r.len = true) ∧
    (r.fsm ≠ .idle → r.fsm ≠ .sending → r.len ≠ 0)

/-- A derived operation's row of R101: its wire opcode and response length. -/
def EsOp.row (op : EsOp) : Option (Half × Byte) :=
  match op with
  | .sendCommand => none
  | .measure => some (0x2C10#16, 6#8)
  | .readStatus => some (0xF32D#16, 3#8)
  | .softReset => some (0x30A2#16, 0#8)
  | .clearStatus => some (0x3041#16, 0#8)
  | .heaterOn => some (0x306D#16, 0#8)
  | .heaterOff => some (0x3066#16, 0#8)

/-- A derived operation in flight carries the opcode and length of its row (R96, R98, R101). -/
def EsRegs.RowKept (r : EsRegs) : Prop :=
  r.fsm ≠ .idle → ∀ row, r.op.row = some row → (r.opc, r.len) = row

/-- Unit ES is well kept. -/
def EsRegs.Kept (p : Params) (r : EsRegs) : Prop :=
  r.BufferSized p ∧ r.ErrClear ∧ r.LengthKept p ∧ r.RowKept

/-- Both units are well kept. -/
def State.Inv (s : State) : Prop := s.rf.Kept s.cfg ∧ s.es.Kept s.cfg

/-- `k` steps of unit RF with no request presented to it. -/
def rfSteps : Nat → State → State
  | 0, s => s
  | k + 1, s => rfSteps k s.rfStep

/-- `k` steps of unit ES with no request presented to it. -/
def esSteps : Nat → State → State
  | 0, s => s
  | k + 1, s => esSteps k s.esStep

end Sys2Proof.Machine
end

