-- ==== Sys2Proof/WellFormed.lean ====
section
/-! DEFINITION. Which instructions have legal operands (`30_encoding.md` R99), under a configuration. -/

namespace Sys2Proof

/-- Whether a rational can stand in the `NUM_OUT` format (R80, R99). -/
def NumOut.holds (f : NumOut) (q : Q) : Bool :=
  match f with
  | .exact => true
  | .format k => Config.representable k q

/-- Legal operands (R99): `SEND_COMMAND` needs `OPB mod 3 = 0` and `OPB <= RESP_MAX`;
`SET_CALIBRATION` needs rationals of the `NUM_OUT` format; every other row has no operand. -/
def Instr.wellFormed (p : Params) : Instr → Bool
  | .sendCommand _ opb => opb.toNat % 3 == 0 && decide (opb.toNat ≤ p.respMax)
  | .setCalibration qa qb => p.numOut.holds qa && p.numOut.holds qb
  | .measureCm => true
  | .measureIn => true
  | .measure => true
  | .readStatus => true
  | .softReset => true
  | .clearStatus => true
  | .heaterOn => true
  | .heaterOff => true
  | .isPresent => true
  | .measHrepCs => true
  | .status => true
  | .softResetCmd => true
  | .clearStatusCmd => true
  | .heaterEnable => true
  | .heaterDisable => true

end Sys2Proof
end

