-- ==== Sys2Proof/Certificates/Slice0/Obligations.lean ====
section
/-! DEFINITION. The statements for the provers, each from numbered rules of the spec, and the few functions
they are written with. -/

namespace Sys2Proof.Claims

open Sys2Proof Sys2Proof.Machine

/-- A host operation (format H), not a wire command. -/
def isHostOp (i : Instr) : Bool :=
  match encode i with
  | .host _ => true
  | .wire _ => false

/-- Words with every field that instruction `i` does not use set to zero (R80). -/
def used (i : Instr) (w : Words) : Words :=
  match w with
  | .wire b => .wire b
  | .host f =>
    match i with
    | .sendCommand _ _ => .host ⟨f.hostop, f.opa, f.opb, 0, 0⟩
    | .setCalibration _ _ => .host ⟨f.hostop, 0, 0, f.qa, f.qb⟩
    | _ => .host ⟨f.hostop, 0, 0, 0, 0⟩

/-- The host's request for unit `u` is gone and nothing else has changed. -/
def requestGone (s : State) (u : UnitId) : State :=
  match u with
  | .rf => { s with env := { s.env with rfInbox := s.env.rfInbox.tail } }
  | .es => { s with env := { s.env with esInbox := s.env.esInbox.tail } }

/-- The events that a step from `s` to `t` adds to the history. -/
def newEvents (s t : State) : List Event := t.hist.drop s.hist.length

/-- R113: what the acceptance step of an RF operation writes and records. -/
def rfAccepted (s : State) (i : Instr) (op : RfOp) : State :=
  { s with
    rf :=
      { fsm := .trig, op := op, cnt := 0, cntRun := true, start := s.rf.start, startV := false,
        end_ := s.rf.end_, endV := false, trig := true }
    hist := s.hist ++ [.accept .rf i, .trigHigh]
    env := { s.env with rfInbox := s.env.rfInbox.tail } }

/-- R141: what the acceptance step of a transaction writes and records. -/
def esAccepted (s : State) (i : Instr) (op : EsOp) (opc : Half) (len : Byte) : State :=
  { s with
    es :=
      { fsm := .sending, op := op, opc := opc, len := len, resp := s.es.resp, crc := s.es.crc,
        deltaT := s.es.deltaT, deltaH := s.es.deltaH, lastErr := .none }
    hist := s.hist ++ [.accept .es i]
    env := { s.env with esInbox := s.env.esInbox.tail } }

/-- The six wire commands and their opcodes (R90 to R95). -/
def wireTable : List (Instr × Half) :=
  [(.measHrepCs, 0x2C10#16), (.status, 0xF32D#16), (.softResetCmd, 0x30A2#16),
    (.clearStatusCmd, 0x3041#16), (.heaterEnable, 0x306D#16), (.heaterDisable, 0x3066#16)]

/-- The payload of an ES operation that ended in error (R84, R213). -/
def noData (op : EsOp) : Payload := if op = .measure then .pair none none else .nothing

/-- An unsigned 16-bit field from its high and low byte (R60, R87). -/
def bigEndian (hi lo : Byte) : Nat := 256 * hi.toNat + lo.toNat

/-- R150, R220: the outcome of a transaction with length `len`, given the bus answers. -/
def outcome (len : Nat) (written : Bool) (answer : Option (List Byte)) : LastErr :=
  if written = false then .bus
  else if len = 0 then .none
  else
    match answer with
    | none => .bus
    | some d => validate d len

/-- R150: the bus events of that transaction, in order. -/
def busEvents (opc : Half) (len : Nat) (written : Bool) (answer : Option (List Byte)) :
    List Event :=
  .busWrite 0x45#7 [opc.extractLsb' 8 8, opc.extractLsb' 0 8] written ::
    (if written = true ∧ len ≠ 0 then [.busRead 0x45#7 len answer] else [])

/-- R84: the payload that a transaction with a response `d` and outcome `o` delivers in the reference
format. -/
def payload (r : EsRegs) (d : List Byte) (o : LastErr) : Payload :=
  if o ≠ .none then noData r.op
  else
    match r.op with
    | .sendCommand => .bytes d
    | .measure =>
      .pair
        (some ((bigEndian (d.getD 0 0) (d.getD 1 0) : Q) * 175 / 65535 - 45 + r.deltaT))
        (some ((bigEndian (d.getD 3 0) (d.getD 4 0) : Q) * 100 / 65535 + r.deltaH))
    | .readStatus => .word (BitVec.ofNat 16 (bigEndian (d.getD 0 0) (d.getD 1 0)))
    | _ => .nothing

/-- D3, R9: `v` is the exact value `q` as a value of the format `f`: `q` itself where `f` holds it, and
within 1e-6 of it where `f` holds a value so near. -/
def roundedNear (f : NumOut) (q v : Q) : Prop :=
  f.holds v = true ∧ (f.holds q = true → v = q) ∧
    ((∃ u, f.holds u = true ∧ |u - q| ≤ 1 / 1000000) → |v - q| ≤ 1 / 1000000)

/-- An operation that performs a transaction (R30). -/
def performsTransaction (i : Instr) : Bool :=
  match i with
  | .sendCommand _ _ => true
  | .measure => true
  | .readStatus => true
  | .softReset => true
  | .clearStatus => true
  | .heaterOn => true
  | .heaterOff => true
  | _ => false

/-- R27, R57, R58, R63: a bus event the block may issue. -/
def busEventAllowed (p : Params) (e : Event) : Prop :=
  match e with
  | .busWrite a b _ => a = 0x45#7 ∧ b.length = 2
  | .busRead a n d =>
    a = 0x45#7 ∧ n % 3 = 0 ∧ 3 ≤ n ∧ n ≤ p.respMax ∧ (∀ l, d = some l → l.length = n)
  | _ => True

/-- A step of unit `u`: the request on its port, or else the next step of its operation. -/
def runUnit (u : UnitId) (s : State) : Host.Outcome State Fault Refusal :=
  match u with
  | .rf => runRf s
  | .es => runEs s

/-- Steps of the two units in the given order, for as long as they answer a next state. -/
def runUnits : List UnitId → State → Host.Outcome State Fault Refusal
  | [], s => .next s
  | u :: order, s =>
    match runUnit u s with
    | .next t => runUnits order t
    | .fault f => .fault f
    | .refused r => .refused r

/-- The same registers, parameters, environment and per-unit histories. -/
def sameButInterleaving (s t : State) : Prop :=
  s.cfg = t.cfg ∧ s.rf = t.rf ∧ s.es = t.es ∧ s.env = t.env ∧
    s.unitHist .rf = t.unitHist .rf ∧ s.unitHist .es = t.unitHist .es

end Sys2Proof.Claims

section

open Sys2Proof Sys2Proof.Machine Sys2Proof.Claims

/-! Reset. -/

/-- R35, R250: every register for which the spec gives a reset value has it, both units are ready, and no
event has been issued. -/
def Obligations.ResetRegisters : Prop :=
  ∀ p : Params,
    (State.resetWith p).rf.fsm = .idle ∧ (State.resetWith p).rf.cntRun = false ∧
    (State.resetWith p).rf.startV = false ∧ (State.resetWith p).rf.endV = false ∧
    (State.resetWith p).rf.trig = false ∧ (State.resetWith p).es.fsm = .idle ∧
    (State.resetWith p).es.lastErr = .none ∧ (State.resetWith p).es.deltaT = 0 ∧
    (State.resetWith p).es.deltaH = 0 ∧ (State.resetWith p).rfReady = true ∧
    (State.resetWith p).esReady = true ∧ (State.resetWith p).hist = []

/-- R252: reset abandons what is in flight: the registers take their reset values, no result is delivered and
the events issued stay. That the next step takes reset before anything else, and that no `TrigLow` is
recorded where `TRIG` was high, is the model's choice (log entry 19). -/
def Obligations.ResetAbandonsOperations : Prop :=
  ∀ s : State, s.env.resetPin = true →
    ∃ t, step s = .next t ∧ t.hist = s.hist ∧ t.cfg = s.cfg ∧ t.rf.fsm = .idle ∧
      t.rf.cntRun = false ∧ t.rf.startV = false ∧ t.rf.endV = false ∧ t.rf.trig = false ∧
      t.es.fsm = .idle ∧ t.es.lastErr = .none ∧ t.es.deltaT = 0 ∧ t.es.deltaH = 0

/-! Encodings. -/

/-- R81, R83: every host code selects the operation of its row, or is reserved. -/
def Obligations.HostCodesSelectOperations : Prop :=
  ∀ (a : Half) (b : Byte) (x y : Q),
    decodeHost ⟨0x00#5, a, b, x, y⟩ = .ok .measureCm ∧
    decodeHost ⟨0x01#5, a, b, x, y⟩ = .ok .measureIn ∧
    decodeHost ⟨0x10#5, a, b, x, y⟩ = .ok (.sendCommand a b) ∧
    decodeHost ⟨0x11#5, a, b, x, y⟩ = .ok .measure ∧
    decodeHost ⟨0x12#5, a, b, x, y⟩ = .ok .readStatus ∧
    decodeHost ⟨0x13#5, a, b, x, y⟩ = .ok .softReset ∧
    decodeHost ⟨0x14#5, a, b, x, y⟩ = .ok .clearStatus ∧
    decodeHost ⟨0x15#5, a, b, x, y⟩ = .ok .heaterOn ∧
    decodeHost ⟨0x16#5, a, b, x, y⟩ = .ok .heaterOff ∧
    decodeHost ⟨0x17#5, a, b, x, y⟩ = .ok .isPresent ∧
    decodeHost ⟨0x18#5, a, b, x, y⟩ = .ok (.setCalibration x y) ∧
    (∀ c : BitVec 5, (0x02 ≤ c.toNat ∧ c.toNat ≤ 0x0F) ∨ 0x19 ≤ c.toNat →
      decodeHost ⟨c, a, b, x, y⟩ = .error (.reservedHostCode c))

/-- R80, R81, R90 to R96: decoding the words of an instruction gives it back, with every operand; and
words that decode to an instruction are its words, but for fields it does not use. -/
def Obligations.DecodeEncodeAgree : Prop :=
  (∀ i : Instr, decode (encode i) = .ok i) ∧
    (∀ (w : Words) (i : Instr), decode w = .ok i → used i w = encode i)

/-- Words written out from R81 and R90 to R95 decode to their rows. -/
def Obligations.TableWordsDecode : Prop :=
  decodeTableWord 8 0x01 = some .measureIn ∧ decodeTableWord 8 0x12 = some .readStatus ∧
    decodeTableWord 8 0x17 = some .isPresent ∧ decodeTableWord 16 0x2C10 = some .measHrepCs ∧
    decodeTableWord 16 0xF32D = some .status ∧ decodeTableWord 16 0x3066 = some .heaterDisable ∧
    decodeTableWord 8 0x02 = none ∧ decodeTableWord 16 0x2C11 = none

/-! What a step of the block runs. -/

/-- R82: a request on a unit's port that decodes to an operation of the unit is executed by the unit's
step; the step itself adds only the use of the environment's choice of unit. -/
def Obligations.StepRunsTheRequest : Prop :=
  ∀ (s : State) (u : UnitId) (r : Request) (i : Instr),
    s.env.resetPin = false → s.mover = some u → s.presented u = some r →
      decodeHost r.fields = .ok i → i.unit = u → step s = exec i s.spendTurn

/-- R85, R97, R142: in the sending step the opcode in flight goes out whatever it is; if it is an opcode of
the table, the step is the execution of that wire command, whose meaning is ES's sending step by the
model's choice (log entry 17). -/
def Obligations.StepSendsTheOpcode : Prop :=
  ∀ s : State, s.env.resetPin = false → s.mover = some .es → s.presented .es = none →
    s.es.fsm = .sending →
      step s = .next s.spendTurn.esSend ∧
        (∀ i, decodeOpcode s.es.opc = .ok i → step s = exec i s.spendTurn)

/-- R11: with no request on its port, the unit that moves takes the next step of its operation. -/
def Obligations.StepAdvancesTheOperation : Prop :=
  ∀ s : State, s.env.resetPin = false →
    (s.mover = some .rf → s.presented .rf = none → step s = .next s.spendTurn.rfStep) ∧
    (s.mover = some .es → s.presented .es = none → step s = .next s.spendTurn.esStep)

/-- R237: with both units idle and no request, every register is held. -/
def Obligations.IdleBlockHolds : Prop :=
  ∀ s : State, s.env.resetPin = false → s.rf.fsm = .idle → s.es.fsm = .idle →
    s.env.rfInbox = [] → s.env.esInbox = [] → step s = .next s

/-- R82, R224: a request to a unit that is not ready is not accepted and changes nothing. -/
def Obligations.BusyUnitAcceptsNothing : Prop :=
  ∀ (s : State) (i : Instr), isHostOp i = true → s.ready i.unit = false →
    exec i s = .next (requestGone s i.unit)

/-- R99, R224: a response length that is no multiple of 3 or exceeds `RESP_MAX` is not accepted and
changes nothing. -/
def Obligations.IllegalLengthAcceptsNothing : Prop :=
  ∀ (s : State) (opa : Half) (opb : Byte), opb.toNat % 3 ≠ 0 ∨ s.cfg.respMax < opb.toNat →
    exec (.sendCommand opa opb) s = .next (requestGone s .es)

/-- R82, R83: a reserved host code, or a code of the other unit, is not accepted and changes nothing. -/
def Obligations.ReservedCodeAcceptsNothing : Prop :=
  ∀ (s : State) (u : UnitId) (r : Request), s.env.resetPin = false → s.mover = some u →
    s.presented u = some r → (∀ i, decodeHost r.fields = .ok i → i.unit ≠ u) →
      step s = .next (requestGone s.spendTurn u)

/-! Unit RF. -/

/-- R113: `MEASURE_CM` and `MEASURE_IN` on an idle RF. -/
def Obligations.RangeOperationsAccepted : Prop :=
  ∀ s : State, s.rf.fsm = .idle →
    exec .measureCm s = .next (rfAccepted s .measureCm .cm) ∧
    exec .measureIn s = .next (rfAccepted s .measureIn .inch)

/-- R114, R112: the trigger step. -/
def Obligations.TriggerStep : Prop :=
  ∀ s : State, s.rf.fsm = .trig →
    s.advDraw ≤ s.cfg.advMax ∧
    s.rfStep =
      { s with
        rf :=
          { s.rf with
            cnt := (s.rf.cnt + 10 + s.advDraw) % s.cfg.period, trig := false, fsm := .waitRise }
        hist := s.hist ++ [.trigLow]
        env := { s.env with ticks := s.env.ticks.spend } }

/-- R115, R118, R119, R213: a poll step of the first loop: above `T_MAX` it ends in `TIMEOUT`; else it samples,
and a low sample is captured in `START`, a high one starts the second loop. In the first case `CNT` is free
after and the captures stay as they are (log entry 4). -/
def Obligations.FirstLoopPoll : Prop :=
  ∀ s : State, s.rf.fsm = .waitRise →
    (s.cfg.tMax < s.rf.cnt →
      ∃ c, c < s.cfg.period ∧
        s.rfStep =
          { s with
            rf := { s.rf with fsm := .idle, cntRun := false, cnt := c }
            hist := s.hist ++ [.complete .rf ⟨.timeout, .nothing⟩]
            env := { s.env with rfFree := s.env.rfFree + 1 } }) ∧
    (s.rf.cnt ≤ s.cfg.tMax → s.echoDraw = false →
      s.rfStep =
        { s with
          rf :=
            { s.rf with
              start := s.rf.cnt, startV := true,
              cnt := (s.rf.cnt + s.advDraw) % s.cfg.period }
          hist := s.hist ++ [.echoSample false s.rf.cnt]
          env := { s.env with echo := s.env.echo.spend, ticks := s.env.ticks.spend } }) ∧
    (s.rf.cnt ≤ s.cfg.tMax → s.echoDraw = true →
      s.rfStep =
        { s with
          rf :=
            { s.rf with
              fsm := .waitFall, cnt := (s.rf.cnt + s.advDraw) % s.cfg.period }
          hist := s.hist ++ [.echoSample true s.rf.cnt]
          env := { s.env with echo := s.env.echo.spend, ticks := s.env.ticks.spend } })

/-- R116: a poll step of the second loop that samples high. -/
def Obligations.SecondLoopHighPoll : Prop :=
  ∀ s : State, s.rf.fsm = .waitFall → s.rf.cnt ≤ s.cfg.tMax → s.echoDraw = true →
    s.rfStep =
      { s with
        rf :=
          { s.rf with
            end_ := s.rf.cnt, endV := true, cnt := (s.rf.cnt + s.advDraw) % s.cfg.period }
        hist := s.hist ++ [.echoSample true s.rf.cnt]
        env := { s.env with echo := s.env.echo.spend, ticks := s.env.ticks.spend } }

/-- R117, R119, R120, R124 to R126: the low sample of the second loop, with both captures, delivers
`(END - START)/58`, times `0.3937` for `MEASURE_IN`, in the format of `NUM_OUT` (log entry 21): a value `d >= 0` (R123) that the format holds. In a well-kept state `START <= END` (R121). `CNT` is free after and
the captures stay (log entry 4). -/
def Obligations.FinishDeliversDistance : Prop :=
  ∀ s : State, s.rf.fsm = .waitFall → s.rf.cnt ≤ s.cfg.tMax → s.echoDraw = false →
    s.rf.startV = true → s.rf.endV = true → s.rf.Kept s.cfg →
    ∃ c d, c < s.cfg.period ∧ 0 ≤ d ∧ s.cfg.numOut.holds d = true ∧
      d = present s.cfg.numOut
        (if s.rf.op = .cm then ((s.rf.end_ - s.rf.start : Nat) : Q) / 58
         else ((s.rf.end_ - s.rf.start : Nat) : Q) / 58 * (3937 / 10000)) ∧
      s.rfStep =
        { s with
          rf := { s.rf with fsm := .idle, cntRun := false, cnt := c }
          hist :=
            s.hist ++
              [.echoSample false s.rf.cnt, .complete .rf ⟨.ok, .distance d⟩]
          env :=
            { s.env with echo := s.env.echo.spend, rfFree := s.env.rfFree + 1 } }

/-- R117, R119, R122, R219: the same sample with a capture missing ends in `NO_CAPTURE`. -/
def Obligations.FinishWithoutCapture : Prop :=
  ∀ s : State, s.rf.fsm = .waitFall → s.rf.cnt ≤ s.cfg.tMax → s.echoDraw = false →
    s.rf.startV = false ∨ s.rf.endV = false →
    ∃ c, c < s.cfg.period ∧
      s.rfStep =
        { s with
          rf := { s.rf with fsm := .idle, cntRun := false, cnt := c }
          hist :=
            s.hist ++
              [.echoSample false s.rf.cnt, .complete .rf ⟨.noCapture, .nothing⟩]
          env :=
            { s.env with echo := s.env.echo.spend, rfFree := s.env.rfFree + 1 } }

/-- R118, R119, R218, R220: in either loop a poll step above `T_MAX` samples nothing and ends in
`TIMEOUT`. -/
def Obligations.PollAboveBoundTimesOut : Prop :=
  ∀ s : State, s.rf.fsm = .waitRise ∨ s.rf.fsm = .waitFall → s.cfg.tMax < s.rf.cnt →
    ∃ c, c < s.cfg.period ∧
      s.rfStep =
        { s with
          rf := { s.rf with fsm := .idle, cntRun := false, cnt := c }
          hist := s.hist ++ [.complete .rf ⟨.timeout, .nothing⟩]
          env := { s.env with rfFree := s.env.rfFree + 1 } }

/-- R121: while an operation is in flight the counter advances by the ticks of the step and never wraps. -/
def Obligations.CounterNeverWraps : Prop :=
  ∀ s : State, s.rf.Kept s.cfg → s.rf.fsm ≠ .idle → s.rfStep.rf.fsm ≠ .idle →
    s.rfStep.rf.cnt = s.rf.cnt + (if s.rf.fsm = .trig then 10 else 0) + s.advDraw ∧
      s.rfStep.rf.cnt < s.cfg.period

/-- R112: whatever the free draws of ticks are, infinitely many of them are above 0. -/
def Obligations.TickDrawsAreFair : Prop :=
  ∀ n, ∃ m, n ≤ m ∧ 0 < Config.freeAdv m

/-- R127, R265: every RF operation ends, whatever the echo and the ticks do, if `ADV_MAX` allows the
counter to advance. -/
def Obligations.RangeOperationsEnd : Prop :=
  ∀ s : State, s.rf.Kept s.cfg → 1 ≤ s.cfg.advMax → ∃ k, (rfSteps k s).rf.fsm = .idle

/-- R127: if the ticks in store are all above 0, an RF operation ends within `T_MAX + 3` steps. -/
def Obligations.RangeOperationsEndInTime : Prop :=
  ∀ s : State, s.rf.Kept s.cfg → 1 ≤ s.cfg.advMax → s.cfg.tMax + 3 ≤ s.env.ticks.script.length →
    (∀ a ∈ s.env.ticks.script, 0 < a) →
      ∃ k, k ≤ s.cfg.tMax + 3 ∧ (rfSteps k s).rf.fsm = .idle

/-- R112 to R117, R124, R125: in the reference configuration of ticks, an echo that is low for `a` polls and
then high for `b` polls is measured as `b` ticks: `START`, `END` and the distance are exact. That the captures stand after the end is log entry 4, the presented value log
entry 21. -/
def Obligations.PulseIsMeasuredExactly : Prop :=
  ∀ (s : State) (i : Instr) (a b : Nat) (moreEcho : List Bool) (moreTicks : List Nat),
    (i = .measureCm ∨ i = .measureIn) → s.rf.fsm = .idle → 1 ≤ a → 2 ≤ b →
    10 + a + b ≤ s.cfg.tMax → 1 ≤ s.cfg.advMax →
    s.env.echo.script = List.replicate a false ++ (List.replicate b true ++ false :: moreEcho) →
    s.env.ticks.script = 0 :: (List.replicate (a + b) 1 ++ moreTicks) →
    ∃ t, exec i s = .next t ∧ (rfSteps (a + b + 2) t).rf.fsm = .idle ∧
      (rfSteps (a + b + 2) t).rf.start = 9 + a ∧ (rfSteps (a + b + 2) t).rf.end_ = 9 + a + b ∧
      (rfSteps (a + b + 2) t).lastResult .rf =
        some ⟨.ok, .distance (present s.cfg.numOut
          (if i = .measureCm then (b : Q) / 58 else (b : Q) / 58 * (3937 / 10000)))⟩

/-- R120, R126: the two distance functions. -/
def Obligations.DistanceFunctions : Prop :=
  (∀ d : Nat, distCm d = (d : Q) / 58) ∧ (∀ d : Q, cmToIn d = d * (3937 / 10000)) ∧
    cmToIn (distCm 201) = 791337 / 580000

/-! Unit ES. -/

/-- R141, R99: the seven operations that perform a transaction, on an idle ES. -/
def Obligations.TransactionsAccepted : Prop :=
  ∀ s : State, s.es.fsm = .idle →
    (∀ (opa : Half) (opb : Byte), opb.toNat % 3 = 0 → opb.toNat ≤ s.cfg.respMax →
      exec (.sendCommand opa opb) s =
        .next (esAccepted s (.sendCommand opa opb) .sendCommand opa opb)) ∧
    exec .measure s = .next (esAccepted s .measure .measure 0x2C10#16 6#8) ∧
    exec .readStatus s = .next (esAccepted s .readStatus .readStatus 0xF32D#16 3#8) ∧
    exec .softReset s = .next (esAccepted s .softReset .softReset 0x30A2#16 0#8) ∧
    exec .clearStatus s = .next (esAccepted s .clearStatus .clearStatus 0x3041#16 0#8) ∧
    exec .heaterOn s = .next (esAccepted s .heaterOn .heaterOn 0x306D#16 0#8) ∧
    exec .heaterOff s = .next (esAccepted s .heaterOff .heaterOff 0x3066#16 0#8)

/-- R85, R142: a wire command whose write is answered `ok` and that has a response: one frame to 0x45, high
byte first, then the settle step. A wire command's meaning is ES's sending step (log entry 17). -/
def Obligations.WireCommandAwaitsResponse : Prop :=
  ∀ row ∈ wireTable, ∀ s : State, s.es.fsm = .sending → s.es.opc = row.2 → s.writeDraw = true →
    s.es.len ≠ 0 →
      exec row.1 s =
        .next
          { s with
            es := { s.es with fsm := .waitSettle }
            hist :=
              s.hist ++
                [.busWrite 0x45#7 [row.2.extractLsb' 8 8, row.2.extractLsb' 0 8] true]
            env := { s.env with writes := s.env.writes.spend } }

/-- R85, R142, R148, R181 to R184: a wire command whose write is answered `ok` and that has no response
ends its transaction with `OK`; no settle delay, no read, `LAST_ERR` as it was. A wire command's meaning is
ES's sending step (log entry 17). -/
def Obligations.WireCommandWithoutResponse : Prop :=
  ∀ row ∈ wireTable, ∀ s : State, s.es.fsm = .sending → s.es.opc = row.2 → s.writeDraw = true →
    s.es.len = 0 → s.es.op ≠ .measure → s.es.op ≠ .readStatus →
      exec row.1 s =
        .next
          { s with
            es := { s.es with fsm := .idle }
            hist :=
              s.hist ++
                [.busWrite 0x45#7 [row.2.extractLsb' 8 8, row.2.extractLsb' 0 8] true,
                  .complete .es
                    ⟨.ok, if s.es.op = .sendCommand then .bytes [] else .nothing⟩]
            env := { s.env with writes := s.env.writes.spend } }

/-- R85, R143, R148, R213, R215: a wire command whose write is answered `fail` ends its transaction with
`BUS_ERROR`. A wire command's meaning is ES's sending step (log entry 17). -/
def Obligations.WireCommandWriteFails : Prop :=
  ∀ row ∈ wireTable, ∀ s : State, s.es.fsm = .sending → s.es.opc = row.2 → s.writeDraw = false →
    exec row.1 s =
      .next
        { s with
          es := { s.es with fsm := .idle, lastErr := .bus }
          hist :=
            s.hist ++
              [.busWrite 0x45#7 [row.2.extractLsb' 8 8, row.2.extractLsb' 0 8] false,
                .complete .es ⟨.busError, noData s.es.op⟩]
          env := { s.env with writes := s.env.writes.spend } }

/-- R149: a wire command is sent in ES's sending step only (log entry 17). -/
def Obligations.WireCommandOnlyWhenSending : Prop :=
  ∀ row ∈ wireTable, ∀ s : State, s.es.fsm ≠ .sending ∨ s.es.opc ≠ row.2 →
    exec row.1 s = .next s

/-- R142, R143: the sending step, whatever opcode is in flight (R97): one frame, `OPC[15:8]` then `OPC[7:0]`.
On `ok` it goes on to the settle step, or with `LEN = 0` ends with `OK` and no bytes; on `fail` it ends
with `BUS_ERROR` and nothing is waited for or read. -/
def Obligations.SendingStep : Prop :=
  ∀ s : State, s.es.fsm = .sending →
    (s.writeDraw = true → s.es.len ≠ 0 →
      s.esStep =
        { s with
          es := { s.es with fsm := .waitSettle }
          hist :=
            s.hist ++
              [.busWrite 0x45#7 [s.es.opc.extractLsb' 8 8, s.es.opc.extractLsb' 0 8] true]
          env := { s.env with writes := s.env.writes.spend } }) ∧
    (s.writeDraw = true → s.es.len = 0 → s.es.Kept s.cfg →
      s.esStep =
        { s with
          es := { s.es with fsm := .idle }
          hist :=
            s.hist ++
              [.busWrite 0x45#7 [s.es.opc.extractLsb' 8 8, s.es.opc.extractLsb' 0 8] true,
                .complete .es ⟨.ok, if s.es.op = .sendCommand then .bytes [] else .nothing⟩]
          env := { s.env with writes := s.env.writes.spend } }) ∧
    (s.writeDraw = false →
      s.esStep =
        { s with
          es := { s.es with fsm := .idle, lastErr := .bus }
          hist :=
            s.hist ++
              [.busWrite 0x45#7 [s.es.opc.extractLsb' 8 8, s.es.opc.extractLsb' 0 8] false,
                .complete .es ⟨.busError, noData s.es.op⟩]
          env := { s.env with writes := s.env.writes.spend } })

/-- R144: the settle step. -/
def Obligations.SettleStep : Prop :=
  ∀ s : State, s.es.fsm = .waitSettle →
    s.esStep = { s with es := { s.es with fsm := .reading } }

/-- R145: a read answered with bytes fills `RESP[0 .. LEN-1]` and leaves the bytes after them, which
R33 calls unspecified (log entry 5). -/
def Obligations.ReadStepFillsBuffer : Prop :=
  ∀ (s : State) (d : List Byte), s.es.fsm = .reading → s.readDraw s.es.len.toNat = some d →
    d.length = s.es.len.toNat ∧
    s.esStep =
      { s with
        es := { s.es with resp := d ++ s.es.resp.drop d.length, fsm := .validating }
        hist := s.hist ++ [.busRead 0x45#7 s.es.len.toNat (some d)]
        env := { s.env with reads := s.env.reads.spend } }

/-- R146, R148, R215: a read answered `fail` ends the transaction with `BUS_ERROR`; `RESP` is left
unspecified (log entry 5). -/
def Obligations.ReadStepFails : Prop :=
  ∀ s : State, s.es.fsm = .reading → s.readDraw s.es.len.toNat = none →
    ∃ resp : List Byte, resp.length = s.es.resp.length ∧
      s.esStep =
        { s with
          es := { s.es with fsm := .idle, lastErr := .bus, resp := resp }
          hist :=
            s.hist ++
              [.busRead 0x45#7 s.es.len.toNat none,
                .complete .es ⟨.busError, noData s.es.op⟩]
          env := { s.env with reads := s.env.reads.spend, esFree := s.env.esFree + 1 } }

/-- R147, R148, R166: the validating step. `CRC` is left with the checksum of one of the groups. -/
def Obligations.ValidatingStep : Prop :=
  ∀ s : State, s.es.fsm = .validating → 3 ≤ s.es.len.toNat →
    ∃ k, k < s.es.len.toNat / 3 ∧
      s.esStep =
        { s with
          es :=
            { s.es with
              fsm := .idle, crc := groupCrc s.es.resp k,
              lastErr :=
                if validate s.es.resp s.es.len.toNat = .none then s.es.lastErr
                else validate s.es.resp s.es.len.toNat }
          hist :=
            s.hist ++
              [.complete .es
                ⟨Status.ofOutcome (validate s.es.resp s.es.len.toNat),
                  if validate s.es.resp s.es.len.toNat = .none then (okResult s.cfg s.es).payload
                  else noData s.es.op⟩]
          env := { s.env with esFree := s.env.esFree + 1 } }

/-- R214: when a transaction completes, the status it delivers is `LAST_ERR` after the step. -/
def Obligations.ResultAgreesWithLastErr : Prop :=
  ∀ s : State, s.es.Kept s.cfg → s.es.fsm ≠ .idle → s.esStep.es.fsm = .idle →
    ∃ r, s.esStep.lastResult .es = some r ∧ r.status = Status.ofOutcome s.esStep.es.lastErr ∧
      r.status.code = s.esStep.es.lastErr.code.setWidth 3

/-- R139 to R150, R176 to R180, R220: four steps from the sending step a transaction is over, with exactly
the bus events, the class and the result that its answers call for (in the reference format of
`NUM_OUT`), the deltas untouched. -/
def Obligations.TransactionComputesItsOutcome : Prop :=
  ∀ (s : State), s.es.Kept s.cfg → s.es.fsm = .sending → s.cfg.numOut = .exact →
    (esSteps 4 s).es.fsm = .idle ∧
    (esSteps 4 s).es.lastErr
      = outcome s.es.len.toNat s.writeDraw (s.readDraw s.es.len.toNat) ∧
    (esSteps 4 s).es.deltaT = s.es.deltaT ∧ (esSteps 4 s).es.deltaH = s.es.deltaH ∧
    (esSteps 4 s).rf = s.rf ∧
    (esSteps 4 s).hist =
      s.hist ++ busEvents s.es.opc s.es.len.toNat s.writeDraw (s.readDraw s.es.len.toNat) ++
        [.complete .es
          ⟨Status.ofOutcome (outcome s.es.len.toNat s.writeDraw (s.readDraw s.es.len.toNat)),
            payload s.es
              (if s.es.len = 0 then [] else (s.readDraw s.es.len.toNat).getD [])
              (outcome s.es.len.toNat s.writeDraw (s.readDraw s.es.len.toNat))⟩]

/-- R9, D3: each value of `MEASURE` is one that the format of `NUM_OUT` holds: the exact value, if the format
holds that, and within 1e-6 of it, if the format holds any value so near (log entry 21). -/
def Obligations.MeasureIsWithinTolerance : Prop :=
  ∀ (p : Params) (r : EsRegs), r.op = .measure →
    ∃ t h, okResult p r = ⟨.ok, .pair (some t) (some h)⟩ ∧
      roundedNear p.numOut ((field r.resp 0).toNat * 175 / 65535 - 45 + r.deltaT) t ∧
      roundedNear p.numOut ((field r.resp 1).toNat * 100 / 65535 + r.deltaH) h

/-- R167, R176, R180, R267: no step delivers the status word 0, nor a temperature and humidity that were both
read as zero; a response whose fields are all zero is delivered as an error with no data. -/
def Obligations.ZeroIsNeverDelivered : Prop :=
  (∀ (s t : State) (u : UnitId) (st : Status) (w : Half), s.Inv → step s = .next t →
    Event.complete u ⟨st, .word w⟩ ∈ newEvents s t → w ≠ 0) ∧
  (∀ (s t : State) (u : UnitId) (st : Status) (a b : Q), s.Inv → step s = .next t →
    Event.complete u ⟨st, .pair (some a) (some b)⟩ ∈ newEvents s t →
      field s.es.resp 0 ≠ 0 ∨ field s.es.resp 1 ≠ 0) ∧
  (∀ s : State, s.es.Kept s.cfg → s.es.fsm = .validating →
    s.es.op = .readStatus ∨ s.es.op = .measure →
    (∀ k, k < s.es.len.toNat / 3 → field s.es.resp k = 0) →
      ∃ st, (st = .dataError ∨ st = .crcError) ∧
        s.esStep.lastResult .es = some ⟨st, noData s.es.op⟩)

/-- R185: `IS_PRESENT` on an idle ES, in one step: `LAST_ERR` and every register as they were. -/
def Obligations.PresenceScan : Prop :=
  ∀ s : State, s.es.fsm = .idle →
    exec .isPresent s =
      .next
        { s with
          hist :=
            s.hist ++
              [.accept .es .isPresent, .busScan s.scanDraw,
                .complete .es
                  ⟨.ok, .bit (match s.scanDraw with
                    | some set => decide (0x45#7 ∈ set)
                    | none => false)⟩]
          env :=
            { s.env with
              esInbox := s.env.esInbox.tail, scans := s.env.scans.spend } }

/-- R186, R99: `SET_CALIBRATION` on an idle ES, with rationals of the `NUM_OUT` format, in one step: both
deltas, nothing else. -/
def Obligations.CalibrationSetsBothDeltas : Prop :=
  ∀ (s : State) (qa qb : Q), s.es.fsm = .idle → s.cfg.numOut.holds qa = true →
    s.cfg.numOut.holds qb = true →
      exec (.setCalibration qa qb) s =
        .next
          { s with
            es := { s.es with deltaT := qa, deltaH := qb }
            hist :=
              s.hist ++ [.accept .es (.setCalibration qa qb), .complete .es ⟨.ok, .nothing⟩]
            env := { s.env with esInbox := s.env.esInbox.tail } }

/-- R99, R186: in the reference format of `NUM_OUT` `SET_CALIBRATION` takes every pair of rationals on an idle
ES: each is well-formed, and becomes the deltas. -/
def Obligations.EveryRationalCalibrates : Prop :=
  ∀ (s : State) (qa qb : Q), s.es.fsm = .idle → s.cfg.numOut = .exact →
    (Instr.setCalibration qa qb).wellFormed s.cfg = true ∧
      ∃ t, exec (.setCalibration qa qb) s = .next t ∧
        t.es = { s.es with deltaT := qa, deltaH := qb } ∧ t.rf = s.rf ∧
        t.lastResult .es = some ⟨.ok, .nothing⟩

/-! The checksum and the validator. -/

/-- R168: worked examples of `crc8`. -/
def Obligations.ChecksumExamples : Prop :=
  crc8 0x00 0x00 = 0x81 ∧ crc8 0x66 0x81 = 0xC5 ∧ crc8 0x80 0x00 = 0xA2 ∧ crc8 0xFF 0xFF = 0xAC ∧
    crc8 0xBE 0xEF = 0x92 ∧ crc8 0x00 0x01 = 0xB0 ∧ crc8 0x01 0x00 = 0x75 ∧
    crc8 0x80 0x10 = 0xE1 ∧ crc8 0x12 0x34 = 0x37 ∧ crc8 0xFF 0x00 = 0x00 ∧
    crc8 0x00 0xFF = 0x2D ∧ crc8 0x00 0xAC = 0x00

/-- R161: the 8-bit form of the bit step. -/
def Obligations.EightBitStepForm : Prop :=
  ∀ c : Byte, crcBit c = (c <<< 1) ^^^ (if c.getLsbD 7 then 0x31#8 else 0#8)

/-- R163 (b): `crc8` is affine over xor. -/
def Obligations.ChecksumIsAffine : Prop :=
  ∀ x0 x1 y0 y1 : Byte,
    crc8 (x0 ^^^ y0) (x1 ^^^ y1) = crc8 x0 x1 ^^^ crc8 y0 y1 ^^^ crc8 0 0

/-- R163 (c): for each first byte the map from second byte to checksum is a bijection. -/
def Obligations.ChecksumIsBijective : Prop :=
  ∀ b0 : Byte, Function.Bijective (fun b1 => crc8 b0 b1)

/-- R163 (d): flipping any single bit of a valid group makes it invalid. -/
def Obligations.SingleBitErrorsAreCaught : Prop :=
  ∀ (b0 b1 : Byte) (i : Nat), i < 8 →
    groupOk [b0 ^^^ (1#8 <<< i), b1, crc8 b0 b1] 0 = false ∧
    groupOk [b0, b1 ^^^ (1#8 <<< i), crc8 b0 b1] 0 = false ∧
    groupOk [b0, b1, crc8 b0 b1 ^^^ (1#8 <<< i)] 0 = false

/-- R165, R220: which responses are which class, for a positive multiple of 3 bytes. -/
def Obligations.ValidatorClasses : Prop :=
  ∀ (resp : List Byte) (n : Nat), n % 3 = 0 → 0 < n →
    (validate resp n = .none ↔
      (∀ k, k < n / 3 → groupOk resp k = true) ∧ ∃ k, k < n / 3 ∧ groupZero resp k = false) ∧
    (validate resp n = .crc ↔
      (∃ i, i < n ∧ respByte resp i ≠ 0) ∧ ∃ k, k < n / 3 ∧ groupOk resp k = false) ∧
    (validate resp n = .data ↔
      (∀ i, i < n → respByte resp i = 0) ∨
        ((∀ k, k < n / 3 → groupOk resp k = true) ∧ ∀ k, k < n / 3 → groupZero resp k = true)) ∧
    validate resp n ≠ .bus

/-- R167: the classes of every 3-byte response. -/
def Obligations.StatusResponseClasses : Prop :=
  (∀ x : Byte, validate [0, 0, x] 3 = if x = 0x00 ∨ x = 0x81 then .data else .crc) ∧
    (∀ b0 b1 x : Byte, b0 ≠ 0 ∨ b1 ≠ 0 →
      validate [b0, b1, x] 3 = if x = crc8 b0 b1 then .none else .crc)

/-! The whole machine. -/

/-- R21, R22, R24, R28, R30, R121, U23: the block's invariants hold after every step that starts from a
state with them. -/
def Obligations.StepKeepsTheInvariants : Prop :=
  ∀ s t : State, s.Inv → step s = .next t → t.Inv

/-- They hold after reset, in every configuration; the registers the spec gives no value are the model's
choice (log entry 3). -/
def Obligations.ResetHasTheInvariants : Prop := ∀ p : Params, (State.resetWith p).Inv

/-- R213, R222: the block never stops: every step ends in a next state. That a request which is not accepted
ends in a next state is the model's choice (log entry 13). -/
def Obligations.BlockNeverStops : Prop := ∀ s : State, ∃ t, step s = .next t

/-- R222: no step undoes an event, and none changes a parameter. -/
def Obligations.HistoryOnlyGrows : Prop :=
  ∀ s t : State, step s = .next t → s.hist <+: t.hist ∧ t.cfg = s.cfg

/-- R20, R50, R236: a step of one unit leaves the other's registers, history, answers and requests. -/
def Obligations.UnitsAreSeparate : Prop :=
  ∀ s : State,
    (s.rfStep.es = s.es ∧ s.rfStep.unitHist .es = s.unitHist .es ∧
      s.rfStep.env.writes = s.env.writes ∧ s.rfStep.env.reads = s.env.reads ∧
      s.rfStep.env.scans = s.env.scans ∧ s.rfStep.env.esInbox = s.env.esInbox) ∧
    (s.esStep.rf = s.rf ∧ s.esStep.unitHist .rf = s.unitHist .rf ∧
      s.esStep.env.echo = s.env.echo ∧ s.esStep.env.ticks = s.env.ticks ∧
      s.esStep.env.rfInbox = s.env.rfInbox)

/-- R68, R236: any interleaving of RF steps with ES steps, the acceptance steps of their requests among them,
gives each unit the same history and the same registers as running them one after the other. -/
def Obligations.InterleavingsAreEquivalent : Prop :=
  ∀ (order : List UnitId) (s : State), ∃ t t',
    runUnits order s = .next t ∧
    runUnits (List.replicate (order.count .rf) .rf ++ List.replicate (order.count .es) .es) s
      = .next t' ∧
    sameButInterleaving t t'

/-- R28, R32, R186, R222: but for reset, the deltas change only when `SET_CALIBRATION` is accepted, and
then to its operands. -/
def Obligations.OnlyCalibrationWritesDeltas : Prop :=
  ∀ s t : State, s.env.resetPin = false → step s = .next t →
    (t.es.deltaT = s.es.deltaT ∧ t.es.deltaH = s.es.deltaH) ∨
      Event.accept .es (.setCalibration t.es.deltaT t.es.deltaH) ∈ newEvents s t

/-- R30: but for reset, `LAST_ERR` changes only by being cleared when a transaction is accepted, or by taking
the class that ES delivers in the same step. -/
def Obligations.OnlyTransactionsWriteLastErr : Prop :=
  ∀ s t : State, s.env.resetPin = false → step s = .next t → t.es.lastErr ≠ s.es.lastErr →
    (t.es.lastErr = .none ∧
      ∃ i, performsTransaction i = true ∧ Event.accept .es i ∈ newEvents s t) ∨
    (t.es.lastErr ≠ .none ∧
      ∃ r, r.status = Status.ofOutcome t.es.lastErr ∧ Event.complete .es r ∈ newEvents s t)

/-- R27, R57, R58, R63: every bus write the block issues is 2 bytes to 0x45, every bus read a multiple of 3
bytes, 3 to `RESP_MAX`, from 0x45. -/
def Obligations.BusEventsAreAllowed : Prop :=
  ∀ s t : State, s.Inv → step s = .next t → ∀ e ∈ newEvents s t, busEventAllowed s.cfg e

/-- R213, R150 (e): a result that is not `OK` carries no data. -/
def Obligations.ErrorsCarryNoData : Prop :=
  ∀ (s t : State) (u : UnitId) (r : Result), step s = .next t →
    Event.complete u r ∈ newEvents s t → r.status ≠ .ok →
      r.payload = .nothing ∨ r.payload = .pair none none

/-- R99, R224: `SET_CALIBRATION` with a rational that the `NUM_OUT` format does not hold is not accepted and
changes nothing (what the model's finite formats hold: log entry 21). -/
def Obligations.RationalOutsideFormatAcceptsNothing : Prop :=
  ∀ (s : State) (qa qb : Q), s.cfg.numOut.holds qa = false ∨ s.cfg.numOut.holds qb = false →
    exec (.setCalibration qa qb) s = .next (requestGone s .es)

end
end

