-- ==== Sys2Proof/Laws/State.lean ====
section
/-! SUPPORT. One lemma per field per update of the state, each true by unfolding the update once. -/

namespace Sys2Proof.Machine

variable (s : State)

@[simp] theorem State.setRf_cfg (r : RfRegs) : (s.setRf r).cfg = s.cfg := rfl

@[simp] theorem State.setRf_rf (r : RfRegs) : (s.setRf r).rf = r := rfl

@[simp] theorem State.setRf_es (r : RfRegs) : (s.setRf r).es = s.es := rfl

@[simp] theorem State.setRf_hist (r : RfRegs) : (s.setRf r).hist = s.hist := rfl

@[simp] theorem State.setRf_env (r : RfRegs) : (s.setRf r).env = s.env := rfl

@[simp] theorem State.setEs_cfg (r : EsRegs) : (s.setEs r).cfg = s.cfg := rfl

@[simp] theorem State.setEs_rf (r : EsRegs) : (s.setEs r).rf = s.rf := rfl

@[simp] theorem State.setEs_es (r : EsRegs) : (s.setEs r).es = r := rfl

@[simp] theorem State.setEs_hist (r : EsRegs) : (s.setEs r).hist = s.hist := rfl

@[simp] theorem State.setEs_env (r : EsRegs) : (s.setEs r).env = s.env := rfl

@[simp] theorem State.setEnv_cfg (e : Env) : (s.setEnv e).cfg = s.cfg := rfl

@[simp] theorem State.setEnv_rf (e : Env) : (s.setEnv e).rf = s.rf := rfl

@[simp] theorem State.setEnv_es (e : Env) : (s.setEnv e).es = s.es := rfl

@[simp] theorem State.setEnv_hist (e : Env) : (s.setEnv e).hist = s.hist := rfl

@[simp] theorem State.setEnv_env (e : Env) : (s.setEnv e).env = e := rfl

@[simp] theorem State.record_cfg (e : Event) : (s.record e).cfg = s.cfg := rfl

@[simp] theorem State.record_rf (e : Event) : (s.record e).rf = s.rf := rfl

@[simp] theorem State.record_es (e : Event) : (s.record e).es = s.es := rfl

@[simp] theorem State.record_hist (e : Event) : (s.record e).hist = s.hist ++ [e] := rfl

@[simp] theorem State.record_env (e : Event) : (s.record e).env = s.env := rfl

@[simp] theorem State.spendEcho_cfg : s.spendEcho.cfg = s.cfg := rfl

@[simp] theorem State.spendEcho_rf : s.spendEcho.rf = s.rf := rfl

@[simp] theorem State.spendEcho_es : s.spendEcho.es = s.es := rfl

@[simp] theorem State.spendEcho_hist : s.spendEcho.hist = s.hist := rfl

@[simp] theorem State.spendEcho_env : s.spendEcho.env = { s.env with echo := s.env.echo.spend } := rfl

@[simp] theorem State.spendAdv_cfg : s.spendAdv.cfg = s.cfg := rfl

@[simp] theorem State.spendAdv_rf : s.spendAdv.rf = s.rf := rfl

@[simp] theorem State.spendAdv_es : s.spendAdv.es = s.es := rfl

@[simp] theorem State.spendAdv_hist : s.spendAdv.hist = s.hist := rfl

@[simp] theorem State.spendAdv_env : s.spendAdv.env = { s.env with ticks := s.env.ticks.spend } := rfl

@[simp] theorem State.spendWrite_cfg : s.spendWrite.cfg = s.cfg := rfl

@[simp] theorem State.spendWrite_rf : s.spendWrite.rf = s.rf := rfl

@[simp] theorem State.spendWrite_es : s.spendWrite.es = s.es := rfl

@[simp] theorem State.spendWrite_hist : s.spendWrite.hist = s.hist := rfl

@[simp] theorem State.spendWrite_env : s.spendWrite.env = { s.env with writes := s.env.writes.spend } := rfl

@[simp] theorem State.spendRead_cfg : s.spendRead.cfg = s.cfg := rfl

@[simp] theorem State.spendRead_rf : s.spendRead.rf = s.rf := rfl

@[simp] theorem State.spendRead_es : s.spendRead.es = s.es := rfl

@[simp] theorem State.spendRead_hist : s.spendRead.hist = s.hist := rfl

@[simp] theorem State.spendRead_env : s.spendRead.env = { s.env with reads := s.env.reads.spend } := rfl

@[simp] theorem State.spendScan_cfg : s.spendScan.cfg = s.cfg := rfl

@[simp] theorem State.spendScan_rf : s.spendScan.rf = s.rf := rfl

@[simp] theorem State.spendScan_es : s.spendScan.es = s.es := rfl

@[simp] theorem State.spendScan_hist : s.spendScan.hist = s.hist := rfl

@[simp] theorem State.spendScan_env : s.spendScan.env = { s.env with scans := s.env.scans.spend } := rfl

@[simp] theorem State.spendRfFree_cfg : s.spendRfFree.cfg = s.cfg := rfl

@[simp] theorem State.spendRfFree_rf : s.spendRfFree.rf = s.rf := rfl

@[simp] theorem State.spendRfFree_es : s.spendRfFree.es = s.es := rfl

@[simp] theorem State.spendRfFree_hist : s.spendRfFree.hist = s.hist := rfl

@[simp] theorem State.spendRfFree_env : s.spendRfFree.env = { s.env with rfFree := s.env.rfFree + 1 } := rfl

@[simp] theorem State.spendEsFree_cfg : s.spendEsFree.cfg = s.cfg := rfl

@[simp] theorem State.spendEsFree_rf : s.spendEsFree.rf = s.rf := rfl

@[simp] theorem State.spendEsFree_es : s.spendEsFree.es = s.es := rfl

@[simp] theorem State.spendEsFree_hist : s.spendEsFree.hist = s.hist := rfl

@[simp] theorem State.spendEsFree_env : s.spendEsFree.env = { s.env with esFree := s.env.esFree + 1 } := rfl

/-! Reset (R250 to R252). -/

@[simp] theorem State.applyReset_cfg : s.applyReset.cfg = s.cfg := rfl

@[simp] theorem State.applyReset_rf : s.applyReset.rf = RfRegs.reset := rfl

@[simp] theorem State.applyReset_es : s.applyReset.es = EsRegs.reset s.cfg := rfl

@[simp] theorem State.applyReset_hist : s.applyReset.hist = s.hist := rfl

@[simp] theorem State.applyReset_env :
    s.applyReset.env = { s.env with resetPin := false } := rfl

/-! The inboxes. -/

@[simp] theorem State.setInbox_cfg (u : UnitId) (l : List Request) :
    (s.setInbox u l).cfg = s.cfg := by cases u <;> rfl

@[simp] theorem State.withdraw_cfg (u : UnitId) : (s.withdraw u).cfg = s.cfg := by
  cases u <;> rfl

@[simp] theorem State.setInbox_rf (u : UnitId) (l : List Request) :
    (s.setInbox u l).rf = s.rf := by cases u <;> rfl

@[simp] theorem State.withdraw_rf (u : UnitId) : (s.withdraw u).rf = s.rf := by
  cases u <;> rfl

@[simp] theorem State.setInbox_es (u : UnitId) (l : List Request) :
    (s.setInbox u l).es = s.es := by cases u <;> rfl

@[simp] theorem State.withdraw_es (u : UnitId) : (s.withdraw u).es = s.es := by
  cases u <;> rfl

@[simp] theorem State.setInbox_hist (u : UnitId) (l : List Request) :
    (s.setInbox u l).hist = s.hist := by cases u <;> rfl

@[simp] theorem State.withdraw_hist (u : UnitId) : (s.withdraw u).hist = s.hist := by
  cases u <;> rfl

@[simp] theorem State.withdraw_rf_env :
    (s.withdraw .rf).env = { s.env with rfInbox := s.env.rfInbox.tail } := rfl

@[simp] theorem State.withdraw_es_env :
    (s.withdraw .es).env = { s.env with esInbox := s.env.esInbox.tail } := rfl

/-! Completing (R119, R148). -/

@[simp] theorem State.complete_cfg (u : UnitId) (r : Result) : (s.complete u r).cfg = s.cfg := by
  cases u <;> rfl

@[simp] theorem State.complete_hist (u : UnitId) (r : Result) :
    (s.complete u r).hist = s.hist ++ [.complete u r] := by cases u <;> rfl

@[simp] theorem State.complete_rf_rf (r : Result) :
    (s.complete .rf r).rf = { s.rf with fsm := .idle, cntRun := false, cnt := s.stoppedCnt } := rfl

@[simp] theorem State.complete_rf_es (r : Result) : (s.complete .rf r).es = s.es := rfl

@[simp] theorem State.complete_rf_env (r : Result) :
    (s.complete .rf r).env = { s.env with rfFree := s.env.rfFree + 1 } := rfl

@[simp] theorem State.complete_es_es (r : Result) :
    (s.complete .es r).es = { s.es with fsm := .idle } := rfl

@[simp] theorem State.complete_es_rf (r : Result) : (s.complete .es r).rf = s.rf := rfl

@[simp] theorem State.complete_es_env (r : Result) : (s.complete .es r).env = s.env := rfl

/-! The turn (R68, D24). -/

@[simp] theorem State.spendTurn_cfg : s.spendTurn.cfg = s.cfg := by
  unfold State.spendTurn; split <;> rfl

@[simp] theorem State.spendTurn_rf : s.spendTurn.rf = s.rf := by
  unfold State.spendTurn; split <;> rfl

@[simp] theorem State.spendTurn_es : s.spendTurn.es = s.es := by
  unfold State.spendTurn; split <;> rfl

@[simp] theorem State.spendTurn_hist : s.spendTurn.hist = s.hist := by
  unfold State.spendTurn; split <;> rfl

end Sys2Proof.Machine
end

