-- ==== Sys2Proof/Laws/Ops.lean ====
section
/-! SUPPORT. What each shared operation can do, said once: drawing, raising an error class, finishing a
transaction. -/

namespace Sys2Proof.Machine

/-- A scripted draw is the script's head. -/
@[simp] theorem Feed.draw_cons {α : Type} (a : α) (l : List α) (n : Nat) (free : Nat → α) :
    (Feed.mk (a :: l) n).draw free = a := rfl

@[simp] theorem Feed.draw_nil {α : Type} (n : Nat) (free : Nat → α) :
    (Feed.mk [] n).draw free = free n := rfl

@[simp] theorem Feed.spend_cons {α : Type} (a : α) (l : List α) (n : Nat) :
    (Feed.mk (a :: l) n).spend = Feed.mk l (n + 1) := rfl

@[simp] theorem Feed.spend_nil {α : Type} (n : Nat) :
    (Feed.mk ([] : List α) n).spend = Feed.mk [] (n + 1) := rfl

/-- An advance is never above `ADV_MAX` (R112). -/
theorem State.advDraw_le (s : State) : s.advDraw ≤ s.cfg.advMax := Nat.min_le_right _ _

/-- A read answers exactly the bytes asked for, or fails (R58). -/
theorem State.readDraw_length (s : State) (n : Nat) (d : List Byte) (h : s.readDraw n = some d) :
    d.length = n := by
  unfold State.readDraw readAnswer at h
  split at h
  · split at h
    · cases h; assumption
    · cases h
  · cases h

/-- A set of addresses names exactly the addresses of the answer (R59). -/
theorem mem_addrSet (l : List Addr7) (a : Addr7) : a ∈ addrSet l ↔ a ∈ l := by
  unfold addrSet
  rw [List.mem_filter]
  constructor
  · rintro ⟨-, h⟩; simpa using h
  · intro h
    refine ⟨List.mem_map.2 ⟨a.toNat, List.mem_range.2 a.isLt, ?_⟩, by simpa using h⟩
    simp

/-- The period is above zero, so the stopped counter is in range (R24). -/
theorem State.stoppedCnt_lt (s : State) : s.stoppedCnt < s.cfg.period :=
  Nat.mod_lt _ (Nat.lt_of_le_of_lt (Nat.zero_le _) s.cfg.no_wrap)

theorem State.cntPlus_lt (p : Params) (n : Nat) : n % p.period < p.period :=
  Nat.mod_lt _ (Nat.lt_of_le_of_lt (Nat.zero_le _) p.no_wrap)

/-- Raising in RF is completing with the class and no payload (R213). -/
@[simp] theorem State.raise_rf (s : State) (e : Status) :
    s.raise .rf e = s.complete .rf ⟨e, .nothing⟩ := rfl

/-- Finishing a transaction: ES is idle, the rest of its registers stand but for `LAST_ERR`, which takes
the outcome if that is an error (R148). -/
theorem State.finish_es (s : State) (o : LastErr) :
    (s.finish o).es =
      { s.es with fsm := .idle, lastErr := if o = .none then s.es.lastErr else o } := by
  cases o <;> rfl

@[simp] theorem State.finish_rf (s : State) (o : LastErr) : (s.finish o).rf = s.rf := by
  cases o <;> rfl

@[simp] theorem State.finish_cfg (s : State) (o : LastErr) : (s.finish o).cfg = s.cfg := by
  cases o <;> rfl

@[simp] theorem State.finish_env (s : State) (o : LastErr) : (s.finish o).env = s.env := by
  cases o <;> rfl

/-- The result of a transaction with outcome `o` (R84, R148). -/
def resultOf (p : Params) (r : EsRegs) (o : LastErr) : Result :=
  if o = .none then okResult p r else ⟨Status.ofOutcome o, errorPayload r.op⟩

theorem State.finish_hist (s : State) (o : LastErr) :
    (s.finish o).hist = s.hist ++ [.complete .es (resultOf s.cfg s.es o)] := by
  cases o <;> rfl

/-- The two spellings of legal operands agree (R99): of WellFormed and of the meanings. -/
theorem sendCommand_wellFormed (p : Params) (opa : Half) (opb : Byte) :
    (Instr.sendCommand opa opb).wellFormed p = lengthLegal p opb := rfl

theorem setCalibration_wellFormed (p : Params) (qa qb : Q) :
    (Instr.setCalibration qa qb).wellFormed p = (rationalLegal p qa && rationalLegal p qb) := rfl

end Sys2Proof.Machine
end

