-- ==== Sys2Proof/Laws/PerInstr.lean ====
section
/-! SUPPORT. A statement about every instruction as syntax, one lemma per constructor: its words select its
unit (R80: `HOSTOP[4]`; R85: a wire command is a frame of two bytes, and ES's). -/

namespace Sys2Proof.Laws.UnitSelect

/-- The unit that words name: `HOSTOP[4]` of a request, ES for a frame of two bytes. -/
def wordsUnit (w : Words) : Option UnitId :=
  match w with
  | .host f => some (if f.hostop.getLsbD 4 then .es else .rf)
  | .wire b => if b.length = 2 then some .es else none

/-- The words of `i` name the unit of `i`. -/
def Statement (i : Instr) : Prop := wordsUnit (encode i) = some i.unit

theorem measureCm : Statement .measureCm := by
  unfold Statement; rfl
theorem measureIn : Statement .measureIn := by
  unfold Statement; rfl
theorem sendCommand (opa : Half) (opb : Byte) : Statement (.sendCommand opa opb) := by
  simp [Statement, wordsUnit, encode, Instr.unit]
theorem measure : Statement .measure := by
  unfold Statement; rfl
theorem readStatus : Statement .readStatus := by
  unfold Statement; rfl
theorem softReset : Statement .softReset := by
  unfold Statement; rfl
theorem clearStatus : Statement .clearStatus := by
  unfold Statement; rfl
theorem heaterOn : Statement .heaterOn := by
  unfold Statement; rfl
theorem heaterOff : Statement .heaterOff := by
  unfold Statement; rfl
theorem isPresent : Statement .isPresent := by
  unfold Statement; rfl
theorem setCalibration (qa qb : Q) : Statement (.setCalibration qa qb) := by
  simp [Statement, wordsUnit, encode, Instr.unit]
theorem measHrepCs : Statement .measHrepCs := by
  unfold Statement; rfl
theorem status : Statement .status := by
  unfold Statement; rfl
theorem softResetCmd : Statement .softResetCmd := by
  unfold Statement; rfl
theorem clearStatusCmd : Statement .clearStatusCmd := by
  unfold Statement; rfl
theorem heaterEnable : Statement .heaterEnable := by
  unfold Statement; rfl
theorem heaterDisable : Statement .heaterDisable := by
  unfold Statement; rfl

end Sys2Proof.Laws.UnitSelect
end

