-- ==== Sys2Proof/Laws/Rounding.lean ====
section
/-! SUPPORT. What rounding to a format of `NUM_OUT` can do (`00_scope.md` R9, D3; `40_rangefinder.md` R123). -/

namespace Sys2Proof.Machine

theorem zero_mem_formatOf (k : Nat) : (0 : Q) ∈ Config.formatOf k := List.mem_cons_self

/-- What is picked is in the list. -/
theorem pick_mem {l : List Q} (h : l ≠ []) (n : Nat) : pick l n ∈ l := by
  have hl : n % l.length < l.length := Nat.mod_lt _ (List.length_pos_iff.2 h)
  simp only [pick, List.getD_eq_getElem?_getD, List.getElem?_eq_getElem hl, Option.getD_some]
  exact List.getElem_mem hl

/-- A list with a value not above `q` has a greatest such value. -/
theorem exists_below (l : List Q) (q : Q) (h : ∃ v ∈ l, v ≤ q) :
    ∃ v ∈ l, v ≤ q ∧ ∀ w ∈ l, w ≤ q → w ≤ v := by
  obtain ⟨v, hv, hq⟩ := h
  obtain ⟨m, hm, hmax⟩ := (l.toFinset.filter (· ≤ q)).exists_max_image id ⟨v, by simp [hv, hq]⟩
  simp only [Finset.mem_filter, List.mem_toFinset, id] at hm hmax
  exact ⟨m, hm.1, hm.2, fun w hw hwq => hmax w ⟨hw, hwq⟩⟩

/-- A list with a value not below `q` has a least such value. -/
theorem exists_above (l : List Q) (q : Q) (h : ∃ v ∈ l, q ≤ v) :
    ∃ v ∈ l, q ≤ v ∧ ∀ w ∈ l, q ≤ w → v ≤ w := by
  obtain ⟨v, hv, hq⟩ := h
  obtain ⟨m, hm, hmin⟩ := (l.toFinset.filter (q ≤ ·)).exists_min_image id ⟨v, by simp [hv, hq]⟩
  simp only [Finset.mem_filter, List.mem_toFinset, id] at hm hmin
  exact ⟨m, hm.1, hm.2, fun w hw hwq => hmin w ⟨hw, hwq⟩⟩

/-- Everything a rounding can be: below the range a value `<= 0`, above it a value `>= 0`, within it a
neighbour. -/
theorem mem_roundings (l : List Q) (q v : Q) :
    v ∈ roundings l q ↔ v ∈ l ∧
      (((∀ w ∈ l, q < w) ∧ v ≤ 0) ∨
        ((∃ w ∈ l, w ≤ q) ∧ (∀ w ∈ l, w < q) ∧ 0 ≤ v) ∨
        ((∃ w ∈ l, w ≤ q) ∧ (∃ w ∈ l, q ≤ w) ∧
          ((v ≤ q ∧ ∀ w ∈ l, w ≤ q → w ≤ v) ∨ (q ≤ v ∧ ∀ w ∈ l, q ≤ w → v ≤ w)))) := by
  unfold roundings
  by_cases h1 : ∀ w ∈ l, q < w
  · have h2 : ¬ ∃ w ∈ l, w ≤ q := by simpa using h1
    rw [if_pos (by simpa using h1)]
    simp only [List.mem_filter, decide_eq_true_eq, h2, false_and, or_false]
    exact ⟨fun h => ⟨h.1, h1, h.2⟩, fun h => ⟨h.1, h.2.2⟩⟩
  · have h2 : ∃ w ∈ l, w ≤ q := by simpa using h1
    rw [if_neg (by simpa using h1)]
    by_cases h3 : ∀ w ∈ l, w < q
    · have h4 : ¬ ∃ w ∈ l, q ≤ w := by simpa using h3
      rw [if_pos (by simpa using h3)]
      simp only [List.mem_filter, decide_eq_true_eq, h1, h2, h4, false_and, and_false, false_or,
        or_false, true_and]
      exact ⟨fun h => ⟨h.1, h3, h.2⟩, fun h => ⟨h.1, h.2.2⟩⟩
    · have h4 : ∃ w ∈ l, q ≤ w := by simpa using h3
      rw [if_neg (by simpa using h3)]
      simp only [List.mem_filter, Bool.or_eq_true, Bool.and_eq_true, List.all_eq_true,
        decide_eq_true_eq, h1, h2, h3, h4, false_and, false_or, true_and]

/-- A format with 0 gives every rational a rounding, not farther from it than any value of the
format. -/
theorem exists_near (l : List Q) (q : Q) (h0 : (0 : Q) ∈ l) (u : Q) (hu : u ∈ l) :
    ∃ v ∈ roundings l q, |v - q| ≤ |u - q| := by
  by_cases hb : ∃ w ∈ l, w ≤ q
  · by_cases ha : ∃ w ∈ l, q ≤ w
    · rcases le_total u q with hq | hq
      · obtain ⟨v, hv, hvq, hmax⟩ := exists_below l q hb
        refine ⟨v, (mem_roundings l q v).2 ⟨hv, .inr (.inr ⟨hb, ha, .inl ⟨hvq, hmax⟩⟩)⟩, ?_⟩
        rw [abs_of_nonpos (by linarith), abs_of_nonpos (by linarith)]
        linarith [hmax u hu hq]
      · obtain ⟨v, hv, hvq, hmin⟩ := exists_above l q ha
        refine ⟨v, (mem_roundings l q v).2 ⟨hv, .inr (.inr ⟨hb, ha, .inr ⟨hvq, hmin⟩⟩)⟩, ?_⟩
        rw [abs_of_nonneg (by linarith), abs_of_nonneg (by linarith)]
        linarith [hmin u hu hq]
    · have ha' : ∀ w ∈ l, w < q := by simpa using ha
      obtain ⟨v, hv, hvq, hmax⟩ := exists_below l q hb
      refine ⟨v, (mem_roundings l q v).2
        ⟨hv, .inr (.inl ⟨hb, ha', hmax 0 h0 (ha' 0 h0).le⟩)⟩, ?_⟩
      rw [abs_of_nonpos (by linarith), abs_of_nonpos (by linarith [ha' u hu])]
      linarith [hmax u hu (ha' u hu).le]
  · have hb' : ∀ w ∈ l, q < w := by simpa using hb
    obtain ⟨v, hv, hvq, hmin⟩ := exists_above l q ⟨0, h0, (hb' 0 h0).le⟩
    refine ⟨v, (mem_roundings l q v).2 ⟨hv, .inl ⟨hb', hmin 0 h0 (hb' 0 h0).le⟩⟩, ?_⟩
    rw [abs_of_nonneg (by linarith), abs_of_nonneg (by linarith [hb' u hu])]
    linarith [hmin u hu (hb' u hu).le]

/-- A value that the format holds is its own only rounding. -/
theorem roundings_of_mem {l : List Q} {q v : Q} (h : q ∈ l) (hv : v ∈ roundings l q) : v = q := by
  rcases ((mem_roundings l q v).1 hv).2 with ⟨h1, -⟩ | ⟨-, h1, -⟩ | ⟨-, -, ⟨h1, h2⟩ | ⟨h1, h2⟩⟩
  · exact absurd (h1 q h) (lt_irrefl q)
  · exact absurd (h1 q h) (lt_irrefl q)
  · exact le_antisymm h1 (h2 q h le_rfl)
  · exact le_antisymm (h2 q h le_rfl) h1

/-- A rounding of a value `>= 0` is `>= 0`. -/
theorem roundings_nonneg {l : List Q} {q v : Q} (h0 : (0 : Q) ∈ l) (hq : 0 ≤ q)
    (hv : v ∈ roundings l q) : 0 ≤ v := by
  rcases ((mem_roundings l q v).1 hv).2 with ⟨h1, -⟩ | ⟨-, -, h1⟩ | ⟨-, -, ⟨-, h1⟩ | ⟨h1, -⟩⟩
  · exact absurd (h1 0 h0) (not_lt.2 hq)
  · exact h1
  · exact h1 0 h0 hq
  · exact le_trans hq h1

/-- Rounding gives one of the roundings. -/
theorem roundTo_mem (k : Nat) (q : Q) : roundTo k q ∈ roundings (Config.formatOf k) q := by
  obtain ⟨v, hv, -⟩ := exists_near _ q (zero_mem_formatOf k) 0 (zero_mem_formatOf k)
  exact pick_mem (List.ne_nil_of_mem hv) _

/-- Everything rounding a value of `MEASURE` can do: one of the roundings, and one within 1e-6 if there
is one. -/
theorem roundMeasure_cases (k : Nat) (q : Q) :
    roundMeasure k q ∈ roundings (Config.formatOf k) q ∧
      ((∃ v ∈ roundings (Config.formatOf k) q, |v - q| ≤ Config.tolerance) →
        |roundMeasure k q - q| ≤ Config.tolerance) := by
  have hm : ∀ v, v ∈ withinTolerance (roundings (Config.formatOf k) q) q ↔
      v ∈ roundings (Config.formatOf k) q ∧ |v - q| ≤ Config.tolerance := by
    intro v
    simp only [withinTolerance, List.mem_filter, decide_eq_true_eq, abs_le, and_congr_right_iff]
    intro _
    constructor <;> rintro ⟨h1, h2⟩ <;> constructor <;> linarith
  unfold roundMeasure
  split
  · rename_i hn
    refine ⟨roundTo_mem k q, ?_⟩
    rintro ⟨v, hv, hd⟩
    have := (hm v).2 ⟨hv, hd⟩
    simp [hn] at this
  · rename_i hn
    have := (hm _).1 (pick_mem hn (Config.freeRound k q))
    exact ⟨this.1, fun _ => this.2⟩

/-- What reaches the host is a value of the format. -/
theorem present_holds (f : NumOut) (q : Q) : f.holds (present f q) = true := by
  cases f with
  | exact => rfl
  | format k =>
    exact decide_eq_true ((mem_roundings _ _ _).1 (roundTo_mem k q)).1

/-- A value that the format holds reaches the host as it is. -/
theorem present_of_holds {f : NumOut} {q : Q} (h : f.holds q = true) : present f q = q := by
  cases f with
  | exact => rfl
  | format k => exact roundings_of_mem (of_decide_eq_true h) (roundTo_mem k q)

/-- A distance that reaches the host is not negative (R123). -/
theorem present_nonneg (f : NumOut) {q : Q} (h : 0 ≤ q) : 0 ≤ present f q := by
  cases f with
  | exact => exact h
  | format k => exact roundings_nonneg (zero_mem_formatOf k) h (roundTo_mem k q)

/-- A value of `MEASURE` that reaches the host is a value of the format. -/
theorem presentMeasure_holds (f : NumOut) (q : Q) : f.holds (presentMeasure f q) = true := by
  cases f with
  | exact => rfl
  | format k => exact decide_eq_true ((mem_roundings _ _ _).1 (roundMeasure_cases k q).1).1

/-- It is the exact value where the format holds that. -/
theorem presentMeasure_of_holds {f : NumOut} {q : Q} (h : f.holds q = true) :
    presentMeasure f q = q := by
  cases f with
  | exact => rfl
  | format k => exact roundings_of_mem (of_decide_eq_true h) (roundMeasure_cases k q).1

/-- It is within 1e-6 of the exact value where the format holds a value so near. -/
theorem presentMeasure_near {f : NumOut} {q u : Q} (hu : f.holds u = true)
    (hd : |u - q| ≤ Config.tolerance) : |presentMeasure f q - q| ≤ Config.tolerance := by
  cases f with
  | exact => simp [presentMeasure, Config.tolerance]
  | format k =>
    obtain ⟨v, hv, hvd⟩ := exists_near _ q (zero_mem_formatOf k) u (of_decide_eq_true hu)
    exact (roundMeasure_cases k q).2 ⟨v, hv, hvd.trans hd⟩

end Sys2Proof.Machine
end

