-- ==== Sys2Proof/Laws/Step.lean ====
section
/-! SUPPORT. Inversion lemmas: everything a unit's step, a request and a step of the block can do. -/

namespace Sys2Proof.Machine

variable {s t : State}

/-- Everything a step of RF can do (R113 to R119). -/
theorem rfStep_cases (s : State) :
    (s.rf.fsm = .idle ∧ s.rfStep = s) ∨
    (s.rf.fsm = .trig ∧ s.rfStep = s.rfTrigger) ∨
    ((s.rf.fsm = .waitRise ∨ s.rf.fsm = .waitFall) ∧ s.cfg.tMax < s.rf.cnt ∧
      s.rfStep = s.complete .rf ⟨.timeout, .nothing⟩) ∨
    (s.rf.fsm = .waitRise ∧ s.rf.cnt ≤ s.cfg.tMax ∧ s.rfStep = s.rfPollRise) ∨
    (s.rf.fsm = .waitFall ∧ s.rf.cnt ≤ s.cfg.tMax ∧ s.rfStep = s.rfPollFall) := by
  unfold State.rfStep
  cases h : s.rf.fsm with
  | idle => exact .inl ⟨rfl, rfl⟩
  | trig => exact .inr (.inl ⟨rfl, rfl⟩)
  | waitRise =>
    by_cases hc : s.cfg.tMax < s.rf.cnt
    · exact .inr (.inr (.inl ⟨.inl rfl, hc, by simp [State.rfPollRise, hc]⟩))
    · exact .inr (.inr (.inr (.inl ⟨rfl, Nat.le_of_not_lt hc, rfl⟩)))
  | waitFall =>
    by_cases hc : s.cfg.tMax < s.rf.cnt
    · exact .inr (.inr (.inl ⟨.inr rfl, hc, by simp [State.rfPollFall, hc]⟩))
    · exact .inr (.inr (.inr (.inr ⟨rfl, Nat.le_of_not_lt hc, rfl⟩)))

/-- A request for RF either starts its operation or changes nothing but the inbox (R82). -/
theorem rfRequest_cases (s : State) (i : Instr) (op : RfOp) :
    (s.rf.fsm = .idle ∧ s.rfRequest i op = (s.withdraw .rf).rfAccept i op) ∨
    (s.rf.fsm ≠ .idle ∧ s.rfRequest i op = s.withdraw .rf) := by
  by_cases h : s.rf.fsm = .idle
  · exact .inl ⟨h, by simp [State.rfRequest, State.rfReady, h]⟩
  · exact .inr ⟨h, by simp [State.rfRequest, State.rfReady, h]⟩

/-- A request for a transaction either starts it or changes nothing but the inbox (R82, R99). -/
theorem esRequest_cases (s : State) (legal : Bool) (i : Instr) (op : EsOp) (opc : Half)
    (len : Byte) :
    (s.es.fsm = .idle ∧ legal = true ∧
      s.esRequest legal i op opc len = (s.withdraw .es).esAccept i op opc len) ∨
    ((s.es.fsm ≠ .idle ∨ legal = false) ∧ s.esRequest legal i op opc len = s.withdraw .es) := by
  by_cases h : s.es.fsm = .idle
  · cases legal
    · exact .inr ⟨.inr rfl, by simp [State.esRequest]⟩
    · exact .inl ⟨h, rfl, by simp [State.esRequest, State.esReady, h]⟩
  · exact .inr ⟨.inl h, by simp [State.esRequest, State.esReady, h]⟩

/-- ES sends the same frame whether or not the opcode is in the table (R97). -/
theorem sendWire_of_sending (h : s.es.fsm = .sending) : s.sendWire s.es.opc = s.esSend := by
  simp [State.sendWire, h]

/-- A step of the block: reset, a step of RF, a step of ES, or waiting. -/
theorem step_cases (s : State) :
    (s.env.resetPin = true ∧ step s = .next s.applyReset) ∨
    (s.env.resetPin = false ∧ s.mover = some .rf ∧ step s = runRf s.spendTurn) ∨
    (s.env.resetPin = false ∧ s.mover = some .es ∧ step s = runEs s.spendTurn) ∨
    (s.env.resetPin = false ∧ s.mover = none ∧ step s = .next s) := by
  unfold step runBlock
  by_cases hr : s.env.resetPin = true
  · exact .inl ⟨hr, by simp [hr]⟩
  · have hf : s.env.resetPin = false := by simpa using hr
    cases hm : s.mover with
    | none => exact .inr (.inr (.inr ⟨hf, rfl, by simp [hf]⟩))
    | some u =>
      cases u with
      | rf => exact .inr (.inl ⟨hf, rfl, by simp [hf]⟩)
      | es => exact .inr (.inr (.inl ⟨hf, rfl, by simp [hf]⟩))

end Sys2Proof.Machine
end

