-- ==== Sys2Proof/Laws/Units.lean ====
section
/-! SUPPORT. Each unit's step reads and writes its own side of the state only (`10_state.md` R20, `60_exceptions.md`
R236): one lemma per unit that says so of two states that agree on that side. -/

namespace Sys2Proof.Machine

/-- The states agree on the parameters and on RF's side: its registers, its draws and its requests. -/
def SameRf (s a : State) : Prop :=
  s.cfg = a.cfg ∧ s.rf = a.rf ∧ s.env.echo = a.env.echo ∧ s.env.ticks = a.env.ticks ∧
    s.env.rfFree = a.env.rfFree ∧ s.env.rfInbox = a.env.rfInbox

/-- The states agree on the parameters and on ES's side. -/
def SameEs (s a : State) : Prop :=
  s.cfg = a.cfg ∧ s.es = a.es ∧ s.env.writes = a.env.writes ∧ s.env.reads = a.env.reads ∧
    s.env.scans = a.env.scans ∧ s.env.esFree = a.env.esFree ∧ s.env.esInbox = a.env.esInbox

/-- `s` with RF's side of `b`, and the events `l` recorded. -/
def State.graftRf (s b : State) (l : List Event) : State :=
  { s with
    rf := b.rf
    hist := s.hist ++ l
    env :=
      { s.env with
        echo := b.env.echo, ticks := b.env.ticks, rfFree := b.env.rfFree
        rfInbox := b.env.rfInbox } }

/-- `s` with ES's side of `b`, and the events `l` recorded. -/
def State.graftEs (s b : State) (l : List Event) : State :=
  { s with
    es := b.es
    hist := s.hist ++ l
    env :=
      { s.env with
        writes := b.env.writes, reads := b.env.reads, scans := b.env.scans
        esFree := b.env.esFree, esInbox := b.env.esInbox } }

/-- On states that agree on RF's side, `f` does the same to that side, records the same events, all of
them RF's, and touches nothing else. -/
def LocalRf (f : State → State) : Prop :=
  ∀ s a, SameRf s a → ∃ b l, f s = s.graftRf b l ∧ f a = a.graftRf b l ∧
    ∀ e ∈ l, Event.unit e = .rf

/-- The same of ES's side. -/
def LocalEs (f : State → State) : Prop :=
  ∀ s a, SameEs s a → ∃ b l, f s = s.graftEs b l ∧ f a = a.graftEs b l ∧
    ∀ e ∈ l, Event.unit e = .es

theorem LocalRf.comp {f g : State → State} (hf : LocalRf f) (hg : LocalRf g) :
    LocalRf (fun x => f (g x)) := by
  intro s a h
  obtain ⟨b, l, e1, e2, hl⟩ := hg s a h
  obtain ⟨b', l', e3, e4, hl'⟩ := hf (s.graftRf b l) (a.graftRf b l)
    ⟨h.1, rfl, rfl, rfl, rfl, rfl⟩
  refine ⟨b', l ++ l', ?_, ?_, fun e he => (List.mem_append.1 he).elim (hl e) (hl' e)⟩
  · simp only [e1, e3]; simp [State.graftRf]
  · simp only [e2, e4]; simp [State.graftRf]

theorem LocalEs.comp {f g : State → State} (hf : LocalEs f) (hg : LocalEs g) :
    LocalEs (fun x => f (g x)) := by
  intro s a h
  obtain ⟨b, l, e1, e2, hl⟩ := hg s a h
  obtain ⟨b', l', e3, e4, hl'⟩ := hf (s.graftEs b l) (a.graftEs b l)
    ⟨h.1, rfl, rfl, rfl, rfl, rfl, rfl⟩
  refine ⟨b', l ++ l', ?_, ?_, fun e he => (List.mem_append.1 he).elim (hl e) (hl' e)⟩
  · simp only [e1, e3]; simp [State.graftEs]
  · simp only [e2, e4]; simp [State.graftEs]

/-- An update of RF's side that is a function of that side. -/
theorem localRf_of (f : State → State) (l : State → List Event)
    (hf : ∀ s, f s = s.graftRf (f s) (l s)) (hs : ∀ s a, SameRf s a → SameRf (f s) (f a) ∧ l s = l a)
    (hl : ∀ s, ∀ e ∈ l s, Event.unit e = .rf) : LocalRf f := by
  intro s a h
  obtain ⟨⟨-, h1, h2, h3, h4, h5⟩, h6⟩ := hs s a h
  refine ⟨f s, l s, hf s, ?_, hl s⟩
  conv_lhs => rw [hf a]
  simp [State.graftRf, h1, h2, h3, h4, h5, h6]

theorem localEs_of (f : State → State) (l : State → List Event)
    (hf : ∀ s, f s = s.graftEs (f s) (l s)) (hs : ∀ s a, SameEs s a → SameEs (f s) (f a) ∧ l s = l a)
    (hl : ∀ s, ∀ e ∈ l s, Event.unit e = .es) : LocalEs f := by
  intro s a h
  obtain ⟨⟨-, h1, h2, h3, h4, h5, h6⟩, h7⟩ := hs s a h
  refine ⟨f s, l s, hf s, ?_, hl s⟩
  conv_lhs => rw [hf a]
  simp [State.graftEs, h1, h2, h3, h4, h5, h6, h7]

theorem complete_rf_local (r : Result) : LocalRf (fun s => s.complete .rf r) :=
  localRf_of _ (fun _ => [.complete .rf r]) (fun _ => rfl)
    (by rintro s a ⟨h1, h2, h3, h4, h5, h6⟩; simp [SameRf, State.complete, State.stoppedCnt, *])
    (by simp [Event.unit])

theorem rfTrigger_local : LocalRf State.rfTrigger :=
  localRf_of _ (fun _ => [.trigLow]) (fun _ => rfl)
    (by
      rintro s a ⟨h1, h2, h3, h4, h5, h6⟩
      simp [SameRf, State.rfTrigger, State.cntPlus, State.advDraw, *])
    (by simp [Event.unit])

/-- Taking an echo sample: its use, its event, and what the step makes of RF's registers. -/
theorem echo_local (r : State → RfRegs) (level : Bool)
    (hr : ∀ s a, SameRf s a → r s = r a) :
    LocalRf (fun s =>
      (((s.setRf (r s)).spendEcho).spendAdv).record (.echoSample level s.rf.cnt)) :=
  localRf_of _ (fun s => [.echoSample level s.rf.cnt]) (fun _ => rfl)
    (by
      intro s a h
      have := hr s a h
      obtain ⟨h1, h2, h3, h4, h5, h6⟩ := h
      simp [SameRf, *])
    (by simp [Event.unit])

theorem lastSample_local :
    LocalRf (fun s => (s.spendEcho).record (.echoSample false s.rf.cnt)) :=
  localRf_of _ (fun s => [.echoSample false s.rf.cnt]) (fun _ => rfl)
    (by rintro s a ⟨h1, h2, h3, h4, h5, h6⟩; simp [SameRf, *])
    (by simp [Event.unit])

theorem rfPollRise_local : LocalRf State.rfPollRise := by
  intro s a h
  have he : a.echoDraw = s.echoDraw := by simp [State.echoDraw, h.2.2.1]
  unfold State.rfPollRise
  rw [he, ← h.1, ← h.2.1]
  by_cases hc : s.cfg.tMax < s.rf.cnt
  · simp only [hc, if_true]
    exact complete_rf_local _ s a h
  · cases hd : s.echoDraw
    · simp only [hc, if_false, Bool.false_eq_true]
      have := echo_local (fun s => { s.rf with
        start := s.rf.cnt, startV := true, cnt := s.cntPlus s.advDraw }) false
        (by rintro s a ⟨h1, h2, h3, h4, h5, h6⟩; simp [State.cntPlus, State.advDraw, *]) s a h
      dsimp only at this
      rw [← h.2.1] at this
      exact this
    · simp only [hc, if_true, if_false]
      have := echo_local (fun s => { s.rf with
        fsm := .waitFall, cnt := s.cntPlus s.advDraw }) true
        (by rintro s a ⟨h1, h2, h3, h4, h5, h6⟩; simp [State.cntPlus, State.advDraw, *]) s a h
      dsimp only at this
      rw [← h.2.1] at this
      exact this

theorem rfFinish_local : LocalRf State.rfFinish := by
  intro s a h
  unfold State.rfFinish
  rw [← h.1, ← h.2.1]
  cases s.rf.startV && s.rf.endV <;> exact complete_rf_local _ s a h

theorem rfPollFall_local : LocalRf State.rfPollFall := by
  intro s a h
  have he : a.echoDraw = s.echoDraw := by simp [State.echoDraw, h.2.2.1]
  unfold State.rfPollFall
  rw [he, ← h.1, ← h.2.1]
  by_cases hc : s.cfg.tMax < s.rf.cnt
  · simp only [hc, if_true]
    exact complete_rf_local _ s a h
  · cases hd : s.echoDraw
    · simp only [hc, if_false, Bool.false_eq_true]
      have := rfFinish_local.comp lastSample_local s a h
      dsimp only at this
      rw [← h.2.1] at this
      exact this
    · simp only [hc, if_true, if_false]
      have := echo_local (fun s => { s.rf with
        end_ := s.rf.cnt, endV := true, cnt := s.cntPlus s.advDraw }) true
        (by rintro s a ⟨h1, h2, h3, h4, h5, h6⟩; simp [State.cntPlus, State.advDraw, *]) s a h
      dsimp only at this
      rw [← h.2.1] at this
      exact this

theorem local_id_rf : LocalRf (fun s => s) :=
  localRf_of _ (fun _ => []) (fun s => by simp [State.graftRf]) (fun _ _ h => ⟨h, rfl⟩) (by simp)

/-- RF's next step (R113 to R119). -/
theorem rfStep_local : LocalRf State.rfStep := by
  intro s a h
  unfold State.rfStep
  rw [← h.2.1]
  cases s.rf.fsm with
  | idle => exact local_id_rf s a h
  | trig => exact rfTrigger_local s a h
  | waitRise => exact rfPollRise_local s a h
  | waitFall => exact rfPollFall_local s a h

theorem withdraw_rf_local : LocalRf (fun s => s.withdraw .rf) :=
  localRf_of _ (fun _ => []) (fun s => by simp [State.graftRf, State.withdraw, State.setInbox, State.setEnv])
    (by rintro s a ⟨h1, h2, h3, h4, h5, h6⟩; simp [SameRf, State.withdraw, State.setInbox, State.inbox, *])
    (by simp)

theorem rfAccept_local (i : Instr) (op : RfOp) : LocalRf (fun s => s.rfAccept i op) :=
  localRf_of _ (fun _ => [.accept .rf i, .trigHigh])
    (fun s => by simp [State.graftRf, State.rfAccept, State.record, State.setRf])
    (by rintro s a ⟨h1, h2, h3, h4, h5, h6⟩; simp [SameRf, State.rfAccept, *])
    (by simp [Event.unit])

theorem rfRequest_local (i : Instr) (op : RfOp) : LocalRf (fun s => s.rfRequest i op) := by
  intro s a h
  have he : a.rfReady = s.rfReady := by simp [State.rfReady, h.2.1]
  unfold State.rfRequest
  simp only [he]
  cases s.rfReady
  · exact withdraw_rf_local s a h
  · exact (rfAccept_local i op).comp withdraw_rf_local s a h

/-! Unit ES. -/

theorem local_id_es : LocalEs (fun s => s) :=
  localEs_of _ (fun _ => []) (fun s => by simp [State.graftEs]) (fun _ _ h => ⟨h, rfl⟩) (by simp)

theorem complete_es_local (r : Result) : LocalEs (fun s => s.complete .es r) :=
  localEs_of _ (fun _ => [.complete .es r]) (fun _ => rfl)
    (by rintro s a ⟨h1, h2, h3, h4, h5, h6, h7⟩; simp [SameEs, State.complete, *])
    (by simp [Event.unit])

theorem finish_local (o : LastErr) : LocalEs (fun s => s.finish o) :=
  localEs_of _ (fun s => [.complete .es (resultOf s.cfg s.es o)])
    (fun s => by cases o <;> rfl)
    (by rintro s a ⟨h1, h2, h3, h4, h5, h6, h7⟩; simp [SameEs, State.finish_es, *])
    (by simp [Event.unit])

theorem sent_local (ok : Bool) :
    LocalEs (fun s => (s.spendWrite).record (.busWrite Config.busAddr (wireBytes s.es.opc) ok)) :=
  localEs_of _ (fun s => [.busWrite Config.busAddr (wireBytes s.es.opc) ok]) (fun _ => rfl)
    (by rintro s a ⟨h1, h2, h3, h4, h5, h6, h7⟩; simp [SameEs, *])
    (by simp [Event.unit])

/-- An update of ES's registers that is a function of ES's side. -/
theorem setEs_local (r : State → EsRegs) (hr : ∀ s a, SameEs s a → r s = r a) :
    LocalEs (fun s => s.setEs (r s)) :=
  localEs_of _ (fun _ => []) (fun s => by simp [State.graftEs, State.setEs])
    (by
      intro s a h
      have := hr s a h
      obtain ⟨h1, h2, h3, h4, h5, h6, h7⟩ := h
      simp [SameEs, *])
    (by simp)

/-- The sending step (R142, R143). -/
theorem esSend_local : LocalEs State.esSend := by
  intro s a h
  have hw : a.writeDraw = s.writeDraw := by simp [State.writeDraw, h.2.2.1]
  unfold State.esSend
  rw [hw]
  cases s.writeDraw
  · exact (finish_local .bus).comp (sent_local false) s a h
  · by_cases hl : s.es.len = 0
    · simp only [hl, ← h.2.1, if_true]
      have := (finish_local .none).comp (sent_local true) s a h
      dsimp only at this
      rw [← h.2.1] at this
      exact this
    · simp only [hl, ← h.2.1, if_true, if_false]
      have := (sent_local true).comp
        (setEs_local (fun s => { s.es with fsm := .waitSettle }) fun s a h => by simp [h.2.1]) s a h
      dsimp only at this
      rw [← h.2.1] at this
      exact this

theorem esRead_local : LocalEs State.esRead := by
  intro s a h
  have hr : a.readDraw a.es.len.toNat = s.readDraw s.es.len.toNat := by
    simp [State.readDraw, h.2.1, h.2.2.2.1]
  unfold State.esRead
  rw [hr]
  cases s.readDraw s.es.len.toNat with
  | none =>
    refine (finish_local .bus).comp (g := fun s =>
      (((s.setEs { s.es with resp := s.lostResp }).spendEsFree).spendRead).record
        (.busRead Config.busAddr s.es.len.toNat none)) ?_ s a h
    exact localEs_of _ (fun s => [.busRead Config.busAddr s.es.len.toNat none]) (fun _ => rfl)
      (by rintro s a ⟨h1, h2, h3, h4, h5, h6, h7⟩; simp [SameEs, State.lostResp, *])
      (by simp [Event.unit])
  | some d =>
    exact localEs_of (fun s =>
      ((s.setEs { s.es with
          resp := writeResp s.es.resp d, fsm := .validating }).spendRead).record
        (.busRead Config.busAddr s.es.len.toNat (some d)))
      (fun s => [.busRead Config.busAddr s.es.len.toNat (some d)]) (fun _ => rfl)
      (by rintro s a ⟨h1, h2, h3, h4, h5, h6, h7⟩; simp [SameEs, *])
      (by simp [Event.unit]) s a h

theorem esValidate_local : LocalEs State.esValidate := by
  intro s a h
  have := (finish_local (validate s.es.resp s.es.len.toNat)).comp (g := fun s =>
    (s.setEs { s.es with crc := s.lastCrc }).spendEsFree)
    (localEs_of _ (fun _ => [])
      (fun s => by simp [State.graftEs, State.setEs, State.spendEsFree, State.setEnv])
      (by rintro s a ⟨h1, h2, h3, h4, h5, h6, h7⟩; simp [SameEs, State.lastCrc, *])
      (by simp)) s a h
  unfold State.esValidate
  rw [← h.2.1]
  dsimp only at this
  rw [← h.2.1] at this
  exact this

/-- ES's next step (R142 to R148). -/
theorem esStep_local : LocalEs State.esStep := by
  intro s a h
  unfold State.esStep
  rw [← h.2.1]
  cases s.es.fsm with
  | idle => exact local_id_es s a h
  | sending => exact esSend_local s a h
  | waitSettle =>
    exact setEs_local (fun s => { s.es with fsm := .reading }) (fun s a h => by simp [h.2.1]) s a h
  | reading => exact esRead_local s a h
  | validating => exact esValidate_local s a h

theorem withdraw_es_local : LocalEs (fun s => s.withdraw .es) :=
  localEs_of _ (fun _ => [])
    (fun s => by simp [State.graftEs, State.withdraw, State.setInbox, State.setEnv])
    (by
      rintro s a ⟨h1, h2, h3, h4, h5, h6, h7⟩
      simp [SameEs, State.withdraw, State.setInbox, State.inbox, *])
    (by simp)

theorem esRequest_local (legal : Params → Bool) (i : Instr) (op : EsOp) (opc : Half) (len : Byte) :
    LocalEs (fun s => s.esRequest (legal s.cfg) i op opc len) := by
  intro s a h
  have he : a.esReady = s.esReady := by simp [State.esReady, h.2.1]
  unfold State.esRequest
  simp only [he, ← h.1]
  cases s.esReady && legal s.cfg
  · exact withdraw_es_local s a h
  · refine LocalEs.comp (f := fun s => s.esAccept i op opc len) ?_ withdraw_es_local s a h
    exact localEs_of _ (fun _ => [.accept .es i])
      (fun s => by simp [State.graftEs, State.esAccept, State.record, State.setEs])
      (by rintro s a ⟨h1, h2, h3, h4, h5, h6, h7⟩; simp [SameEs, State.esAccept, *])
      (by simp [Event.unit])

theorem esScan_local : LocalEs State.esScan := by
  intro s a h
  have hd : a.scanDraw = s.scanDraw := by simp [State.scanDraw, h.2.2.2.2.1]
  have := (complete_es_local ⟨.ok, .bit (presentIn s.scanDraw)⟩).comp
    (localEs_of (fun x => ((x.spendScan).record (.accept .es .isPresent)).record
        (.busScan x.scanDraw)) (fun x => [.accept .es .isPresent, .busScan x.scanDraw])
      (fun x => by simp [State.graftEs, State.record, State.spendScan, State.setEnv])
      (by rintro s a ⟨h1, h2, h3, h4, h5, h6, h7⟩; simp [SameEs, State.scanDraw, *])
      (by simp [Event.unit])) s a h
  unfold State.esScan
  rw [hd]
  dsimp only at this
  rw [hd] at this
  exact this

theorem esCalibrate_local (qa qb : Q) : LocalEs (fun s => s.esCalibrate qa qb) :=
  localEs_of _
    (fun _ => [.accept .es (.setCalibration qa qb), .complete .es ⟨.ok, .nothing⟩])
    (fun s => by
      simp [State.graftEs, State.esCalibrate, State.complete, State.record, State.setEs])
    (by
      rintro s a ⟨h1, h2, h3, h4, h5, h6, h7⟩
      simp [SameEs, State.esCalibrate, State.complete, *])
    (by simp [Event.unit])

theorem sendWire_local (opcode : Half) : LocalEs (fun s => s.sendWire opcode) := by
  intro s a h
  unfold State.sendWire
  simp only [← h.2.1]
  by_cases hc : s.es.fsm = .sending ∧ s.es.opc = opcode
  · simp only [hc, and_self, if_true]
    exact esSend_local s a h
  · simp only [hc, if_false]
    exact local_id_es s a h

/-! Whole steps of a unit. -/

/-- An operation of RF answers a next state, a function of RF's side. -/
theorem exec_rf_local (i : Instr) (hi : i.unit = .rf) :
    ∃ f, LocalRf f ∧ ∀ s, exec i s = .next (f s) := by
  cases i with
  | measureCm => exact ⟨_, rfRequest_local .measureCm .cm, fun _ => rfl⟩
  | measureIn => exact ⟨_, rfRequest_local .measureIn .inch, fun _ => rfl⟩
  | _ => cases hi

/-- An operation or wire command of ES answers a next state, a function of ES's side. -/
theorem exec_es_local (i : Instr) (hi : i.unit = .es) :
    ∃ f, LocalEs f ∧ ∀ s, exec i s = .next (f s) := by
  cases i with
  | measureCm => cases hi
  | measureIn => cases hi
  | sendCommand opa opb =>
    exact ⟨_, esRequest_local (fun p => lengthLegal p opb) (.sendCommand opa opb) .sendCommand opa
      opb, fun _ => rfl⟩
  | measure => exact ⟨_, esRequest_local (fun _ => true) .measure .measure 0x2C10#16 6#8, fun _ => rfl⟩
  | readStatus =>
    exact ⟨_, esRequest_local (fun _ => true) .readStatus .readStatus 0xF32D#16 3#8, fun _ => rfl⟩
  | softReset =>
    exact ⟨_, esRequest_local (fun _ => true) .softReset .softReset 0x30A2#16 0#8, fun _ => rfl⟩
  | clearStatus =>
    exact ⟨_, esRequest_local (fun _ => true) .clearStatus .clearStatus 0x3041#16 0#8, fun _ => rfl⟩
  | heaterOn =>
    exact ⟨_, esRequest_local (fun _ => true) .heaterOn .heaterOn 0x306D#16 0#8, fun _ => rfl⟩
  | heaterOff =>
    exact ⟨_, esRequest_local (fun _ => true) .heaterOff .heaterOff 0x3066#16 0#8, fun _ => rfl⟩
  | isPresent =>
    refine ⟨fun s => if s.esReady then (s.withdraw .es).esScan else s.withdraw .es, ?_, fun _ => rfl⟩
    intro s a h
    have he : a.esReady = s.esReady := by simp [State.esReady, h.2.1]
    dsimp only
    rw [he]
    cases s.esReady
    · exact withdraw_es_local s a h
    · exact esScan_local.comp withdraw_es_local s a h
  | setCalibration qa qb =>
    refine ⟨fun s =>
      if s.esReady && (rationalLegal s.cfg qa && rationalLegal s.cfg qb) then
        (s.withdraw .es).esCalibrate qa qb
      else s.withdraw .es, ?_, fun _ => rfl⟩
    intro s a h
    have he : a.esReady = s.esReady := by simp [State.esReady, h.2.1]
    dsimp only
    rw [he, ← h.1]
    cases s.esReady && (rationalLegal s.cfg qa && rationalLegal s.cfg qb)
    · exact withdraw_es_local s a h
    · exact (esCalibrate_local qa qb).comp withdraw_es_local s a h
  | measHrepCs => exact ⟨_, sendWire_local 0x2C10#16, fun _ => rfl⟩
  | status => exact ⟨_, sendWire_local 0xF32D#16, fun _ => rfl⟩
  | softResetCmd => exact ⟨_, sendWire_local 0x30A2#16, fun _ => rfl⟩
  | clearStatusCmd => exact ⟨_, sendWire_local 0x3041#16, fun _ => rfl⟩
  | heaterEnable => exact ⟨_, sendWire_local 0x306D#16, fun _ => rfl⟩
  | heaterDisable => exact ⟨_, sendWire_local 0x3066#16, fun _ => rfl⟩

/-- A wire command is an instruction of ES. -/
theorem decodeOpcode_unit {opcode : Half} {i : Instr} (h : decodeOpcode opcode = .ok i) :
    i.unit = .es := by
  unfold decodeOpcode at h
  split at h <;> cases h <;> rfl

/-- A step of RF, its requests among them (R82, R113 to R119). -/
theorem runRf_local : ∃ f, LocalRf f ∧ ∀ s, runRf s = .next (f s) := by
  have hs : ∀ s, ∃ f, LocalRf f ∧ ∀ a, SameRf s a → runRf a = .next (f a) := by
    intro s
    have hp : ∀ a, SameRf s a → a.presented .rf = s.presented .rf := by
      rintro a ⟨h1, h2, h3, h4, h5, h6⟩
      simp [State.presented, State.inbox, State.ready, State.rfReady, *]
    cases h : s.presented .rf with
    | none => exact ⟨_, rfStep_local, fun a ha => by simp [runRf, hp a ha, h]⟩
    | some r =>
      cases hd : decodeHost r.fields with
      | error e =>
        exact ⟨_, withdraw_rf_local, fun a ha => by simp [runRf, hp a ha, h, runRequest, hd]⟩
      | ok i =>
        by_cases hi : i.unit = .rf
        · obtain ⟨f, hf, he⟩ := exec_rf_local i hi
          exact ⟨f, hf, fun a ha => by simp [runRf, hp a ha, h, runRequest, hd, hi, he]⟩
        · exact ⟨_, withdraw_rf_local,
            fun a ha => by simp [runRf, hp a ha, h, runRequest, hd, hi]⟩
  refine ⟨fun s => (hs s).choose s, ?_, fun s => (hs s).choose_spec.2 s ⟨rfl, rfl, rfl, rfl, rfl, rfl⟩⟩
  intro s a h
  obtain ⟨hf, he⟩ := (hs s).choose_spec
  obtain ⟨-, ha⟩ := (hs a).choose_spec
  have : (hs a).choose a = (hs s).choose a := by
    have h1 := ha a ⟨rfl, rfl, rfl, rfl, rfl, rfl⟩
    rw [he a h] at h1
    exact (Host.Outcome.next.inj h1).symm
  dsimp only
  rw [this]
  exact hf s a h

/-- A step of ES, its requests among them (R82, R141 to R149, R185, R186). -/
theorem runEs_local : ∃ f, LocalEs f ∧ ∀ s, runEs s = .next (f s) := by
  have hs : ∀ s, ∃ f, LocalEs f ∧ ∀ a, SameEs s a → runEs a = .next (f a) := by
    intro s
    have hp : ∀ a, SameEs s a → a.presented .es = s.presented .es := by
      rintro a ⟨h1, h2, h3, h4, h5, h6, h7⟩
      simp [State.presented, State.inbox, State.ready, State.esReady, *]
    cases h : s.presented .es with
    | none =>
      by_cases hf : s.es.fsm = .sending
      · cases hd : decodeWire (wireBytes s.es.opc) with
        | error e =>
          exact ⟨_, esSend_local, fun a ha => by
            simp [runEs, hp a ha, h, ← ha.2.1, hf, runSending, hd]⟩
        | ok i =>
          have hi : i.unit = .es := decodeOpcode_unit hd
          obtain ⟨f, hl, he⟩ := exec_es_local i hi
          exact ⟨f, hl, fun a ha => by
            simp [runEs, hp a ha, h, ← ha.2.1, hf, runSending, hd, he]⟩
      · exact ⟨_, esStep_local, fun a ha => by simp [runEs, hp a ha, h, ← ha.2.1, hf]⟩
    | some r =>
      cases hd : decodeHost r.fields with
      | error e =>
        exact ⟨_, withdraw_es_local, fun a ha => by simp [runEs, hp a ha, h, runRequest, hd]⟩
      | ok i =>
        by_cases hi : i.unit = .es
        · obtain ⟨f, hf, he⟩ := exec_es_local i hi
          exact ⟨f, hf, fun a ha => by simp [runEs, hp a ha, h, runRequest, hd, hi, he]⟩
        · exact ⟨_, withdraw_es_local,
            fun a ha => by simp [runEs, hp a ha, h, runRequest, hd, hi]⟩
  refine ⟨fun s => (hs s).choose s, ?_,
    fun s => (hs s).choose_spec.2 s ⟨rfl, rfl, rfl, rfl, rfl, rfl, rfl⟩⟩
  intro s a h
  obtain ⟨hf, he⟩ := (hs s).choose_spec
  obtain ⟨-, ha⟩ := (hs a).choose_spec
  have : (hs a).choose a = (hs s).choose a := by
    have h1 := ha a ⟨rfl, rfl, rfl, rfl, rfl, rfl, rfl⟩
    rw [he a h] at h1
    exact (Host.Outcome.next.inj h1).symm
  dsimp only
  rw [this]
  exact hf s a h

end Sys2Proof.Machine
end

