-- ==== Sys2Proof/Tests/Slice0.lean ====
section
/-! SUPPORT. Small tests, their results taken from the spec's examples and vectors (`95_test_vectors.md`), and for
each obligation with hypotheses a witness that meets them. -/

namespace Sys2Proof.Tests

open Sys2Proof Sys2Proof.Machine Sys2Proof.Claims

/-! Helpers. -/

/-- The vectors' configuration: `T_MAX = 1000`, `ADV_MAX = 1`, `PERIOD = 6000000`, `RESP_MAX = 6`. -/
def p : Params := ⟨1000, 1, 6000000, 6, .exact, by decide, by decide, by decide, by decide⟩

/-- The same in some finite format of `NUM_OUT`. -/
def pFormat : Params :=
  ⟨1000, 1, 6000000, 6, .format 0, by decide, by decide, by decide, by decide⟩

def s0 : State := State.resetWith p

/-- RF in a given phase. -/
def rfAt (fsm : RfFsm) (cnt : Nat) (echo : List Bool) (ticks : List Nat) : State :=
  { s0 with
    rf :=
      { s0.rf with
        fsm := fsm, cnt := cnt, cntRun := fsm != .idle, trig := fsm == .trig }
    env := { s0.env with echo := ⟨echo, 0⟩, ticks := ⟨ticks, 0⟩ } }

/-- RF in its second loop with both captures made. -/
def captured (op : RfOp) (start end_ cnt : Nat) : State :=
  { rfAt .waitFall cnt [false] [] with
    rf :=
      { fsm := .waitFall, op := op, cnt := cnt, cntRun := true, start := start, startV := true,
        end_ := end_, endV := true, trig := false } }

/-- ES in a given phase of a transaction. -/
def esAt (fsm : EsFsm) (op : EsOp) (opc : Half) (len : Byte) (resp : List Byte) : State :=
  { s0 with es := { s0.es with fsm := fsm, op := op, opc := opc, len := len, resp := resp } }

def write (s : State) (ok : Bool) : State :=
  { s with env := { s.env with writes := ⟨[ok], 0⟩ } }

def read (s : State) (a : Option (List Byte)) : State :=
  { s with env := { s.env with reads := ⟨[a], 0⟩ } }

def scan (s : State) (a : Option (List Addr7)) : State :=
  { s with env := { s.env with scans := ⟨[a], 0⟩ } }

def lastErrIs (s : State) (e : LastErr) : State := { s with es := { s.es with lastErr := e } }

/-- A host request with no operands, presented at once on a unit's port. -/
def asking (s : State) (u : UnitId) (code : BitVec 5) : State :=
  s.setInbox u [⟨HostFields.ofCode code, true⟩]

/-- A field of the next state, if there is one. -/
def next {α : Type} (o : Host.Outcome State Fault Refusal) (f : State → α) : Option α :=
  match o with
  | .next t => some (f t)
  | .fault _ => none
  | .refused _ => none

/-! Well-formedness: one ill-formed term for each check (R99). -/

theorem test_wf_length_not_multiple_of_3 :
    (Instr.sendCommand 0xF32D 4).wellFormed p = false := by decide

theorem test_wf_length_too_long : (Instr.sendCommand 0x2C10 9).wellFormed p = false := by decide

theorem test_wf_length_legal : (Instr.sendCommand 0x2C10 6).wellFormed p = true := by decide

/-- A rational that the format cannot hold is refused, whichever it is; 0 is held. -/
theorem test_wf_rational_not_in_format (q : Q) (h : Config.representable 0 q = false) :
    (Instr.setCalibration q 0).wellFormed pFormat = false ∧
    (Instr.setCalibration 0 0).wellFormed pFormat = true :=
  ⟨by simp [Instr.wellFormed, NumOut.holds, pFormat, h],
    by simp [Instr.wellFormed, NumOut.holds, pFormat, Config.representable, Config.formatOf]⟩

/-- R6: configurations that break a constraint are refused; `T_MAX = TRIG_TICKS` is legal. -/
theorem test_config_constraints :
    Params.ofValues 9 1 6000000 6 .exact = none ∧ Params.ofValues 1000 1 1001 6 .exact = none ∧
    Params.ofValues 1000 1 6000000 7 .exact = none ∧
    Params.ofValues 1000 1 6000000 3 .exact = none ∧
    (Params.ofValues 10 1 12 9 .exact).isSome = true := by decide

/-! Decoding (R81, R83, R90 to R96). -/

theorem test_decode_measure_cm : decodeTableWord 8 0b00000 = some .measureCm := by decide
theorem test_decode_measure_in : decodeTableWord 8 0b00001 = some .measureIn := by decide
theorem test_decode_send_command :
    decodeHost ⟨0b10000#5, 0xF32D#16, 3#8, 7, 9⟩ = .ok (.sendCommand 0xF32D#16 3#8) := by rfl
theorem test_decode_measure : decodeTableWord 8 0b10001 = some .measure := by decide
theorem test_decode_read_status : decodeTableWord 8 0b10010 = some .readStatus := by decide
theorem test_decode_soft_reset : decodeTableWord 8 0b10011 = some .softReset := by decide
theorem test_decode_clear_status : decodeTableWord 8 0b10100 = some .clearStatus := by decide
theorem test_decode_heater_on : decodeTableWord 8 0b10101 = some .heaterOn := by decide
theorem test_decode_heater_off : decodeTableWord 8 0b10110 = some .heaterOff := by decide
theorem test_decode_is_present : decodeTableWord 8 0b10111 = some .isPresent := by decide
theorem test_decode_set_calibration :
    decodeHost ⟨0b11000#5, 0#16, 0#8, 5 / 2, -1⟩ = .ok (.setCalibration (5 / 2) (-1)) := by rfl
theorem test_decode_meas_hrep_cs : decodeWire [0x2C#8, 0x10#8] = .ok .measHrepCs := by rfl
theorem test_decode_status : decodeWire [0xF3#8, 0x2D#8] = .ok .status := by rfl
theorem test_decode_soft_reset_cmd : decodeWire [0x30#8, 0xA2#8] = .ok .softResetCmd := by rfl
theorem test_decode_clear_status_cmd : decodeWire [0x30#8, 0x41#8] = .ok .clearStatusCmd := by rfl
theorem test_decode_heater_enable : decodeWire [0x30#8, 0x6D#8] = .ok .heaterEnable := by rfl
theorem test_decode_heater_disable : decodeWire [0x30#8, 0x66#8] = .ok .heaterDisable := by rfl

/-- V-ES-47, V-RF-19: reserved host codes. -/
theorem test_decode_reserved :
    decodeTableWord 8 0x02 = none ∧ decodeTableWord 8 0x0F = none ∧
    decodeTableWord 8 0x19 = none ∧ decodeTableWord 8 0x1F = none := by decide

/-- R60: the bytes in the other order are no opcode; a frame has two bytes. -/
theorem test_decode_wire_refuses :
    decodeWire [0x10#8, 0x2C#8] = .error (.notInOpcodeMap 0x102C#16) ∧
    decodeWire [0x2C#8] = .error (.notTwoBytes 1) := ⟨rfl, rfl⟩

/-- R85: the frame of 2C 10, high byte first. -/
theorem test_encode_frame : encode .measHrepCs = .wire [0x2C#8, 0x10#8] := by decide

/-! The first instruction after reset: the step runs it. -/

theorem test_first_step_host :
    step (State.reset.withFetchWord 8 0x00)
      = exec .measureCm (State.reset.withFetchWord 8 0x00) ∧
    step (State.reset.withFetchWord 8 0x11)
      = exec .measure (State.reset.withFetchWord 8 0x11) ∧
    step (State.reset.withFetchWord 8 0x17)
      = exec .isPresent (State.reset.withFetchWord 8 0x17) := ⟨rfl, rfl, rfl⟩

theorem test_first_step_wire :
    step (State.reset.withFetchWord 16 0xF32D)
      = exec .status (State.reset.withFetchWord 16 0xF32D) := rfl

theorem test_first_step_is_next :
    ([0x00, 0x01, 0x10, 0x11, 0x12, 0x13, 0x14, 0x15, 0x16, 0x17, 0x18].all
      fun w => (next (step (State.reset.withFetchWord 8 w)) fun _ => ()).isSome) = true ∧
    ([0x2C10, 0xF32D, 0x30A2, 0x3041, 0x306D, 0x3066].all
      fun w => (next (step (State.reset.withFetchWord 16 w)) fun _ => ()).isSome) = true :=
  ⟨rfl, rfl⟩

/-! RF (`95_test_vectors.md` 2.5). -/

/-- P1: acceptance zeroes the counter and drives the trigger. -/
theorem test_measure_cm_accept :
    next (exec .measureCm { s0 with rf := { s0.rf with cnt := 77, startV := true } })
      (fun t => (t.rf.fsm, t.rf.op, t.rf.cnt, t.rf.startV, t.hist))
      = some (.trig, .cm, 0, false, [.accept .rf .measureCm, .trigHigh]) := by decide

/-- V-RF-17: a second request while RF polls. -/
theorem test_measure_cm_busy :
    next (step (asking (rfAt .waitRise 10 [] []) .rf 0x00#5)) (fun t => (t.rf, t.hist, t.env.rfInbox))
      = some ((rfAt .waitRise 10 [] []).rf, [], []) := by decide

/-- P1, request 2: `RF_OP = 1`. -/
theorem test_measure_in_accept :
    next (exec .measureIn s0) (fun t => (t.rf.op.code, t.rf.trig, t.hist))
      = some (1#1, true, [.accept .rf .measureIn, .trigHigh]) := by decide

/-- V-RF-02: `MEASURE_IN` delivers 3937/2900. -/
theorem test_measure_in_result :
    (captured .inch 99 299 300).rfStep.lastResult .rf
      = some ⟨.ok, .distance (3937 / 2900)⟩ := by decide +kernel

/-- V-RF-03: `diff = 201` gives 201/58. -/
theorem test_measure_cm_result :
    (captured .cm 99 300 301).rfStep.lastResult .rf
      = some ⟨.ok, .distance (201 / 58)⟩ := by decide +kernel

/-- V-RF-14: the trigger step with `e = 1`, clamped to `ADV_MAX = 1` had it been 2. -/
theorem test_trigger_step :
    ((rfAt .trig 0 [] [2]).rfStep.rf.cnt, (rfAt .trig 0 [] [2]).rfStep.trigPin,
      (rfAt .trig 0 [] [2]).rfStep.hist) = (11, false, [.trigLow]) := by decide

/-- V-RF-08b, V-RF-08: a sample is taken at `CNT = T_MAX`, none above it. -/
theorem test_bound_is_strict :
    (rfAt .waitRise 1000 [false] [1]).rfStep.rf.start = 1000 ∧
    (rfAt .waitRise 1001 [true] [1]).rfStep.lastResult .rf = some ⟨.timeout, .nothing⟩ ∧
    (rfAt .waitRise 1001 [true] [1]).rfStep.env.echo.script = [true] := by decide

/-- V-RF-10b: a pulse of one poll, `END` never captured. -/
theorem test_no_capture :
    (rfAt .waitFall 12 [false] []).rfStep.lastResult .rf = some ⟨.noCapture, .nothing⟩ := by
  decide

/-! ES (`95_test_vectors.md` 2.4). -/

/-- V-ES-41: acceptance writes any opcode and length. -/
theorem test_send_command_accept :
    next (exec (.sendCommand 0x1234 3) (lastErrIs s0 .crc))
      (fun t => (t.es.fsm, t.es.opc, t.es.len, t.es.lastErr))
      = some (.sending, 0x1234#16, 3#8, .none) := by decide

/-- V-ES-44: an illegal length, `LAST_ERR` unchanged and not even `Accept`. -/
theorem test_send_command_illegal :
    next (exec (.sendCommand 0xF32D 4) (lastErrIs s0 .crc)) (fun t => (t.es.fsm, t.es.lastErr, t.hist))
      = some (.idle, .crc, []) := by decide

/-- R140's example: 80 10 E1 is delivered with its check byte. -/
theorem test_send_command_result :
    (esAt .validating .sendCommand 0xF32D 3 [0x80, 0x10, 0xE1, 9, 9, 9]).esStep.lastResult .es
      = some ⟨.ok, .bytes [0x80, 0x10, 0xE1]⟩ := by decide +kernel

/-- V-ES-02: `DELTA_T = 5/2` shifts the temperature. -/
theorem test_measure_result :
    (State.esStep
      { esAt .validating .measure 0x2C10 6 [0x66, 0x81, 0xC5, 0x80, 0x00, 0xA2] with
        es :=
          { (esAt .validating .measure 0x2C10 6 [0x66, 0x81, 0xC5, 0x80, 0x00, 0xA2]).es with
            deltaT := 5 / 2 } }).lastResult .es
      = some ⟨.ok, .pair (some (240925 / 8738)) (some (655360 / 13107))⟩ := by decide +kernel

/-- V-ES-07: zero data with correct check bytes. -/
theorem test_measure_data_error :
    (esAt .validating .measure 0x2C10 6 [0, 0, 0x81, 0, 0, 0x81]).esStep.lastResult .es
      = some ⟨.dataError, .pair none none⟩ := by decide +kernel

/-- V-ES-12. -/
theorem test_read_status_result :
    (esAt .validating .readStatus 0xF32D 3 [0x80, 0x10, 0xE1, 0, 0, 0]).esStep.lastResult .es
      = some ⟨.ok, .word 0x8010⟩ := by decide +kernel

/-- V-ES-13. -/
theorem test_read_status_crc_error :
    (esAt .validating .readStatus 0xF32D 3 [0x80, 0x10, 0xE0, 0, 0, 0]).esStep.hostLastErr = .crc := by
  decide +kernel

/-- V-ES-22 to V-ES-25: opcode and length of the commands without a response. -/
theorem test_commands_accept :
    next (exec .softReset s0) (fun t => (t.es.opc, t.es.len)) = some (0x30A2#16, 0#8) ∧
    next (exec .clearStatus s0) (fun t => (t.es.opc, t.es.len)) = some (0x3041#16, 0#8) ∧
    next (exec .heaterOn s0) (fun t => (t.es.opc, t.es.len)) = some (0x306D#16, 0#8) ∧
    next (exec .heaterOff s0) (fun t => (t.es.opc, t.es.len)) = some (0x3066#16, 0#8) := by decide

/-- V-ES-48: `MEASURE` presented while ES settles changes nothing. -/
theorem test_measure_busy :
    next (step (asking (esAt .waitSettle .measure 0x2C10 6 []) .es 0x11#5)) (fun t => (t.es, t.hist))
      = some ((esAt .waitSettle .measure 0x2C10 6 []).es, []) := by decide

/-- V-ES-30, V-ES-33. -/
theorem test_is_present :
    next (exec .isPresent (scan s0 (some [0x45, 0x3C]))) (fun t => t.hist)
      = some [.accept .es .isPresent, .busScan (some [0x3C, 0x45]),
          .complete .es ⟨.ok, .bit true⟩] ∧
    next (exec .isPresent (lastErrIs (scan s0 none) .crc))
      (fun t => (t.lastResult .es, t.es.lastErr)) = some (some ⟨.ok, .bit false⟩, .crc) := by
  decide +kernel

/-- V-ES-34. -/
theorem test_set_calibration :
    next (exec (.setCalibration (5 / 2) (-1)) (lastErrIs s0 .data))
      (fun t => (t.es.deltaT, t.es.deltaH, t.es.lastErr)) = some (5 / 2, -1, .data) := by
  decide +kernel

/-- V-ES-01, V-ES-21: the frames of the two commands with a response, then the settle step. -/
theorem test_meas_hrep_cs :
    next (exec .measHrepCs (write (esAt .sending .measure 0x2C10 6 []) true))
      (fun t => (t.es.fsm, t.hist))
      = some (.waitSettle, [.busWrite 0x45 [0x2C, 0x10] true]) := by decide

theorem test_status :
    next (exec .status (write (esAt .sending .readStatus 0xF32D 3 []) true))
      (fun t => (t.es.fsm, t.hist))
      = some (.waitSettle, [.busWrite 0x45 [0xF3, 0x2D] true]) := by decide

/-- V-ES-22b. -/
theorem test_soft_reset_cmd_fails :
    next (exec .softResetCmd (write (esAt .sending .softReset 0x30A2 0 []) false))
      (fun t => (t.es.fsm, t.es.lastErr, t.hist))
      = some (.idle, .bus, [.busWrite 0x45 [0x30, 0xA2] false,
          .complete .es ⟨.busError, .nothing⟩]) := by decide

/-- V-ES-23 to V-ES-25. -/
theorem test_clear_status_cmd :
    next (exec .clearStatusCmd (write (esAt .sending .clearStatus 0x3041 0 []) true))
      (fun t => (t.es.fsm, t.hist))
      = some (.idle, [.busWrite 0x45 [0x30, 0x41] true, .complete .es ⟨.ok, .nothing⟩]) := by
  decide

theorem test_heater_enable :
    next (exec .heaterEnable (write (esAt .sending .heaterOn 0x306D 0 []) true))
      (fun t => (t.es.fsm, t.hist))
      = some (.idle, [.busWrite 0x45 [0x30, 0x6D] true, .complete .es ⟨.ok, .nothing⟩]) := by
  decide

theorem test_heater_disable :
    next (exec .heaterDisable (write (esAt .sending .heaterOff 0x3066 0 []) true))
      (fun t => (t.es.fsm, t.hist))
      = some (.idle, [.busWrite 0x45 [0x30, 0x66] true, .complete .es ⟨.ok, .nothing⟩]) := by
  decide

/-- V-ES-05: a failed read; the bytes of the buffer are unspecified after. -/
theorem test_read_fails :
    (read (esAt .reading .measure 0x2C10 6 []) none).esStep.hist
      = [.busRead 0x45 6 none, .complete .es ⟨.busError, .pair none none⟩] := by decide

/-- R58: fewer bytes than asked for are a failed read. -/
theorem test_short_read_fails :
    (read (esAt .reading .readStatus 0xF32D 3 []) (some [0x80, 0x10])).esStep.hostLastErr = .bus := by
  decide

/-- P3: a 3-byte read leaves the later bytes of the buffer. -/
theorem test_read_keeps_rest :
    (read (esAt .reading .readStatus 0xF32D 3 [0x66, 0x81, 0xC4, 0x80, 0x00, 0xA2])
      (some [0x80, 0x10, 0xE1])).esStep.es.resp = [0x80, 0x10, 0xE1, 0x80, 0x00, 0xA2] := by decide

/-! The checksum and the validator (R162, V-VAL). -/

/-- R162: after the first byte of 00 00 the register is AC. -/
theorem test_crc_trace : crcByte 0xFF 0x00 = 0xAC ∧ crcByte 0xAC 0x00 = 0x81 := by decide

/-- V-CRC-05, V-CRC-13 to V-CRC-15. -/
theorem test_crc_vectors :
    crc8 0xBE 0xEF = 0x92 ∧ crc8 0x61 0x21 = 0x97 ∧ crc8 0x00 0x10 = 0xC2 ∧
    crc8 0x67 0x81 = 0x31 := by decide +kernel

/-- V-VAL-02, V-VAL-04, V-VAL-05, V-VAL-12, V-VAL-19. -/
theorem test_validate_vectors :
    validate [0, 0, 0, 0, 0, 0] 6 = .data ∧ validate [0, 0, 0x81, 0, 0, 0x80] 6 = .crc ∧
    validate [0, 0, 0x81, 0x80, 0, 0xA2] 6 = .none ∧
    validate [0, 0xAC, 0, 0, 0xAC, 0] 6 = .none ∧ validate [0, 0, 0x81, 0, 0, 0] 6 = .crc := by
  decide +kernel

/-- V-CONV-02, V-CONV-05, V-CONV-10. -/
theorem test_conversions :
    temperature 0xFFFF 0 = 130 ∧ humidity 0xFFFF 0 = 100 ∧
    temperature 0x0001 0 = -589780 / 13107 ∧ humidity 0x0001 (-1) = -13087 / 13107 := by
  decide +kernel

/-- R9, D3, R123, by hand in a format that holds -1, 0, 1/2 and 1: the neighbours of 1/3, of a value held,
and what is left open above and below the range. -/
theorem test_roundings :
    roundings [0, 1, -1, 1 / 2] (1 / 3) = [0, 1 / 2] ∧
    roundings [0, 1, -1, 1 / 2] (1 / 2) = [1 / 2] ∧
    roundings [0, 1, -1, 1 / 2] 3 = [0, 1, 1 / 2] ∧
    roundings [0, 1, -1, 1 / 2] (-3) = [0, -1] ∧
    withinTolerance [0, 1 / 2] (1 / 2000000) = [0] := by decide +kernel

/-! The whole block. -/

/-- V-RST-02: reset while ES settles. -/
theorem test_reset_in_flight :
    next (step
      { esAt .waitSettle .measure 0x2C10 6 [] with
        hist := [.busWrite 0x45 [0x2C, 0x10] true]
        env := { s0.env with resetPin := true } }) (fun t => (t.es, t.hist))
      = some (EsRegs.reset p, [.busWrite 0x45 [0x2C, 0x10] true]) := by decide

/-- R83: a reserved code on ES's port. -/
theorem test_reserved_code :
    next (step (asking s0 .es 0x19#5)) (fun t => t) = some (asking s0 .es 0x19#5 |>.withdraw .es) := by
  decide

/-- P5: with both units in flight, the turn decides which one moves. -/
theorem test_turn :
    next (step
      { esAt .waitSettle .measure 0x2C10 6 [] with
        rf := (rfAt .trig 0 [] []).rf
        env := { s0.env with turns := ⟨[.es], 0⟩ } }) (fun t => (t.rf.fsm, t.es.fsm))
      = some (.trig, .reading) := by decide

/-- Both orders of two acceptance steps; `IS_PRESENT` is done in its one step. -/
theorem test_interleaved_requests :
    next (runUnits [.es, .rf] (scan ((asking s0 .rf 0x00#5).setInbox .es
      [⟨HostFields.ofCode 0x17#5, true⟩]) none)) (fun t => (t.rf.fsm, t.unitHist .es))
      = some (.trig, [.accept .es .isPresent, .busScan none, .complete .es ⟨.ok, .bit false⟩]) ∧
    next (runUnits [.rf, .es] (scan ((asking s0 .rf 0x00#5).setInbox .es
      [⟨HostFields.ofCode 0x17#5, true⟩]) none)) (fun t => (t.rf.fsm, t.unitHist .es))
      = some (.trig, [.accept .es .isPresent, .busScan none, .complete .es ⟨.ok, .bit false⟩]) := by
  decide +kernel

/-! Witnesses: for each obligation with hypotheses, states and operands that meet all of them. -/

theorem witness_reset : ∃ s : State, s.env.resetPin = true :=
  ⟨{ s0 with env := { s0.env with resetPin := true } }, rfl⟩

theorem witness_reserved_codes :
    (∃ c : BitVec 5, 0x02 ≤ c.toNat ∧ c.toNat ≤ 0x0F) ∧ ∃ c : BitVec 5, 0x19 ≤ c.toNat :=
  ⟨⟨0x0F#5, by decide⟩, ⟨0x19#5, by decide⟩⟩

theorem witness_decodes : ∃ w i, decode w = .ok i ∧ used i w = encode i :=
  ⟨.host ⟨0x10#5, 0x2C10#16, 6#8, 1, 2⟩, .sendCommand 0x2C10#16 6#8, rfl, rfl⟩

theorem witness_step_request :
    ∃ (s : State) (u : UnitId) (r : Request) (i : Instr),
      s.env.resetPin = false ∧ s.mover = some u ∧ s.presented u = some r ∧
      decodeHost r.fields = .ok i ∧ i.unit = u :=
  ⟨asking s0 .rf 0x00#5, .rf, ⟨HostFields.ofCode 0x00#5, true⟩, .measureCm, rfl, rfl, rfl, rfl, rfl⟩

theorem witness_step_opcode :
    ∃ (s : State) (i : Instr), s.env.resetPin = false ∧ s.mover = some .es ∧
      s.presented .es = none ∧ s.es.fsm = .sending ∧ decodeOpcode s.es.opc = .ok i :=
  ⟨esAt .sending .measure 0x2C10 6 [], .measHrepCs, rfl, rfl, rfl, rfl, rfl⟩

/-- An opcode outside the table goes out too. -/
theorem witness_step_other_opcode :
    ∃ s : State, s.env.resetPin = false ∧ s.mover = some .es ∧ s.presented .es = none ∧
      s.es.fsm = .sending ∧ ∀ i, decodeOpcode s.es.opc ≠ .ok i :=
  ⟨esAt .sending .sendCommand 0x1234 3 [], rfl, rfl, rfl, rfl, by intro i h; cases h⟩

theorem witness_step_operation :
    (∃ s : State, s.env.resetPin = false ∧ s.mover = some .rf ∧ s.presented .rf = none) ∧
    ∃ s : State, s.env.resetPin = false ∧ s.mover = some .es ∧ s.presented .es = none :=
  ⟨⟨rfAt .trig 0 [] [], rfl, rfl, rfl⟩, ⟨esAt .waitSettle .measure 0x2C10 6 [], rfl, rfl, rfl⟩⟩

theorem witness_idle :
    ∃ s : State, s.env.resetPin = false ∧ s.rf.fsm = .idle ∧ s.es.fsm = .idle ∧
      s.env.rfInbox = [] ∧ s.env.esInbox = [] := ⟨s0, rfl, rfl, rfl, rfl, rfl⟩

theorem witness_busy :
    (∃ s : State, isHostOp .measureCm = true ∧ s.ready (Instr.measureCm).unit = false) ∧
    ∃ s : State, isHostOp .isPresent = true ∧ s.ready (Instr.isPresent).unit = false :=
  ⟨⟨rfAt .trig 0 [] [], rfl, rfl⟩, ⟨esAt .reading .measure 0x2C10 6 [], rfl, rfl⟩⟩

theorem witness_illegal_length :
    (∃ b : Byte, b.toNat % 3 ≠ 0) ∧ ∃ b : Byte, s0.cfg.respMax < b.toNat :=
  ⟨⟨4#8, by decide⟩, ⟨9#8, by decide⟩⟩

/-- A finite format does not hold every rational. -/
theorem not_every_rational (k : Nat) : ∃ q : Q, Config.representable k q = false := by
  obtain ⟨q, h⟩ := Infinite.exists_notMem_finset (Config.formatOf k).toFinset
  exact ⟨q, by simpa [Config.representable] using h⟩

theorem witness_rational_outside_format :
    (∃ (s : State) (qa : Q), s.cfg.numOut.holds qa = false) ∧
    ∃ (s : State) (qa qb : Q), s.cfg.numOut.holds qa = true ∧ s.cfg.numOut.holds qb = false := by
  obtain ⟨q, h⟩ := not_every_rational 0
  exact ⟨⟨State.resetWith pFormat, q, h⟩,
    ⟨State.resetWith pFormat, 0, q, by
      simp [State.resetWith, pFormat, NumOut.holds, Config.representable, Config.formatOf], h⟩⟩

theorem witness_reserved_request :
    ∃ (s : State) (u : UnitId) (r : Request), s.env.resetPin = false ∧ s.mover = some u ∧
      s.presented u = some r ∧ ∀ i, decodeHost r.fields = .ok i → i.unit ≠ u :=
  ⟨asking s0 .es 0x19#5, .es, ⟨HostFields.ofCode 0x19#5, true⟩, rfl, rfl, rfl,
    by intro i h; cases h⟩

theorem witness_rf_idle : ∃ s : State, s.rf.fsm = .idle := ⟨s0, rfl⟩

theorem witness_trigger : ∃ s : State, s.rf.fsm = .trig := ⟨rfAt .trig 0 [] [], rfl⟩

theorem witness_first_loop :
    (∃ s : State, s.rf.fsm = .waitRise ∧ s.cfg.tMax < s.rf.cnt) ∧
    (∃ s : State, s.rf.fsm = .waitRise ∧ s.rf.cnt ≤ s.cfg.tMax ∧ s.echoDraw = false) ∧
    ∃ s : State, s.rf.fsm = .waitRise ∧ s.rf.cnt ≤ s.cfg.tMax ∧ s.echoDraw = true :=
  ⟨⟨rfAt .waitRise 1001 [] [], by decide⟩, ⟨rfAt .waitRise 1000 [false] [], by decide⟩,
    ⟨rfAt .waitRise 1000 [true] [], by decide⟩⟩

theorem witness_second_loop_high :
    ∃ s : State, s.rf.fsm = .waitFall ∧ s.rf.cnt ≤ s.cfg.tMax ∧ s.echoDraw = true :=
  ⟨rfAt .waitFall 1000 [true] [], by decide⟩

theorem witness_finish :
    ∃ s : State, s.rf.fsm = .waitFall ∧ s.rf.cnt ≤ s.cfg.tMax ∧ s.echoDraw = false ∧
      s.rf.startV = true ∧ s.rf.endV = true ∧ s.rf.Kept s.cfg :=
  ⟨captured .cm 99 299 300, rfl, by decide, rfl, rfl, rfl,
    by simp [captured, rfAt, s0, State.resetWith, p, RfRegs.Kept, RfRegs.InRange, RfRegs.PhaseBits,
      RfRegs.Captures]⟩

theorem witness_no_capture :
    ∃ s : State, s.rf.fsm = .waitFall ∧ s.rf.cnt ≤ s.cfg.tMax ∧ s.echoDraw = false ∧
      (s.rf.startV = false ∨ s.rf.endV = false) :=
  ⟨rfAt .waitFall 12 [false] [], by decide⟩

theorem witness_timeout :
    (∃ s : State, s.rf.fsm = .waitRise ∧ s.cfg.tMax < s.rf.cnt) ∧
    ∃ s : State, s.rf.fsm = .waitFall ∧ s.cfg.tMax < s.rf.cnt :=
  ⟨⟨rfAt .waitRise 1001 [] [], by decide⟩, ⟨rfAt .waitFall 1001 [] [], by decide⟩⟩

/-- RF in its first loop, well kept. -/
theorem kept_polling (ticks : List Nat) : (rfAt .waitRise 10 [] ticks).rf.Kept p := by
  refine ⟨⟨?_, ?_, ?_⟩, ⟨?_, ?_⟩, ?_, ?_, ?_⟩ <;> simp [rfAt, p, s0, State.resetWith, RfRegs.reset]

theorem witness_counter :
    ∃ s : State, s.rf.Kept s.cfg ∧ s.rf.fsm ≠ .idle ∧ s.rfStep.rf.fsm ≠ .idle :=
  ⟨{ rfAt .waitRise 10 [] [] with
      env := { s0.env with echo := ⟨[false], 0⟩ } },
    kept_polling [], by decide, by decide⟩

theorem witness_operations_end : ∃ s : State, s.rf.Kept s.cfg ∧ 1 ≤ s.cfg.advMax :=
  ⟨rfAt .waitRise 10 [] [], kept_polling [], by decide⟩

theorem witness_operations_end_in_time :
    ∃ s : State, s.rf.Kept s.cfg ∧ 1 ≤ s.cfg.advMax ∧
      s.cfg.tMax + 3 ≤ s.env.ticks.script.length ∧ ∀ a ∈ s.env.ticks.script, 0 < a := by
  refine ⟨rfAt .waitRise 10 [] (List.replicate 1003 1), kept_polling _, by decide, ?_, ?_⟩
  · exact Nat.le_of_eq (List.length_replicate (n := 1003) (a := 1)).symm
  · intro a h
    have h' : a ∈ List.replicate 1003 1 := h
    rw [List.eq_of_mem_replicate h']
    decide

theorem witness_pulse :
    ∃ (s : State) (i : Instr) (a b : Nat) (e : List Bool) (k : List Nat),
      (i = .measureCm ∨ i = .measureIn) ∧ s.rf.fsm = .idle ∧ 1 ≤ a ∧ 2 ≤ b ∧
      10 + a + b ≤ s.cfg.tMax ∧ 1 ≤ s.cfg.advMax ∧
      s.env.echo.script = List.replicate a false ++ (List.replicate b true ++ false :: e) ∧
      s.env.ticks.script = 0 :: (List.replicate (a + b) 1 ++ k) :=
  ⟨rfAt .idle 0 [false, true, true, false] [0, 1, 1, 1], .measureCm, 1, 2, [], [], by decide⟩

theorem witness_es_idle :
    ∃ (s : State) (b : Byte), s.es.fsm = .idle ∧ b.toNat % 3 = 0 ∧ b.toNat ≤ s.cfg.respMax :=
  ⟨s0, 6#8, by decide⟩

theorem witness_wire_awaits :
    ∃ row ∈ wireTable, ∃ s : State, s.es.fsm = .sending ∧ s.es.opc = row.2 ∧
      s.writeDraw = true ∧ s.es.len ≠ 0 :=
  ⟨(.measHrepCs, 0x2C10#16), by decide, write (esAt .sending .measure 0x2C10 6 []) true, by decide⟩

theorem witness_wire_without_response :
    ∃ row ∈ wireTable, ∃ s : State, s.es.fsm = .sending ∧ s.es.opc = row.2 ∧
      s.writeDraw = true ∧ s.es.len = 0 ∧ s.es.op ≠ .measure ∧ s.es.op ≠ .readStatus :=
  ⟨(.heaterEnable, 0x306D#16), by decide, write (esAt .sending .heaterOn 0x306D 0 []) true,
    by decide⟩

theorem witness_wire_fails :
    ∃ row ∈ wireTable, ∃ s : State, s.es.fsm = .sending ∧ s.es.opc = row.2 ∧
      s.writeDraw = false :=
  ⟨(.status, 0xF32D#16), by decide, write (esAt .sending .readStatus 0xF32D 3 []) false, by decide⟩

theorem witness_wire_not_sending :
    (∃ row ∈ wireTable, ∃ s : State, s.es.fsm ≠ .sending) ∧
    ∃ row ∈ wireTable, ∃ s : State, s.es.fsm = .sending ∧ s.es.opc ≠ row.2 :=
  ⟨⟨(.status, 0xF32D#16), by decide, s0, by decide⟩,
    ⟨(.status, 0xF32D#16), by decide, esAt .sending .measure 0x2C10 6 [], by decide⟩⟩

/-- An opcode outside the table, in each of the three cases of the sending step. -/
theorem witness_sending :
    (∃ s : State, s.es.fsm = .sending ∧ s.writeDraw = true ∧ s.es.len ≠ 0) ∧
    (∃ s : State, s.es.fsm = .sending ∧ s.writeDraw = true ∧ s.es.len = 0 ∧ s.es.Kept s.cfg) ∧
    ∃ s : State, s.es.fsm = .sending ∧ s.writeDraw = false := by
  refine ⟨⟨write (esAt .sending .sendCommand 0x1234 3 []) true, by decide⟩,
    ⟨write (esAt .sending .sendCommand 0x1234 0 [0, 0, 0, 0, 0, 0]) true, rfl, rfl, rfl,
      rfl, fun _ => rfl, ⟨fun _ => by simp [write, esAt, lengthLegal], fun _ h => absurd rfl h⟩, ?_⟩,
    ⟨write (esAt .sending .sendCommand 0x1234 3 []) false, by decide⟩⟩
  intro _ row h
  cases h

theorem witness_settle : ∃ s : State, s.es.fsm = .waitSettle :=
  ⟨esAt .waitSettle .measure 0x2C10 6 [], rfl⟩

theorem witness_read :
    (∃ (s : State) (d : List Byte), s.es.fsm = .reading ∧
      s.readDraw s.es.len.toNat = some d) ∧
    ∃ s : State, s.es.fsm = .reading ∧ s.readDraw s.es.len.toNat = none :=
  ⟨⟨read (esAt .reading .readStatus 0xF32D 3 []) (some [0x80, 0x10, 0xE1]), [0x80, 0x10, 0xE1],
      by decide⟩,
    ⟨read (esAt .reading .readStatus 0xF32D 3 []) none, by decide⟩⟩

theorem witness_validating :
    (∃ s : State, s.es.fsm = .validating ∧ 3 ≤ s.es.len.toNat ∧
      validate s.es.resp s.es.len.toNat = .none) ∧
    ∃ s : State, s.es.fsm = .validating ∧ 3 ≤ s.es.len.toNat ∧
      validate s.es.resp s.es.len.toNat = .crc :=
  ⟨⟨esAt .validating .readStatus 0xF32D 3 [0x80, 0x10, 0xE1, 0, 0, 0], by decide +kernel⟩,
    ⟨esAt .validating .readStatus 0xF32D 3 [0x80, 0x10, 0xE0, 0, 0, 0], by decide +kernel⟩⟩

/-- ES with a status read in flight, well kept. -/
theorem kept_transaction (fsm : EsFsm) :
    (esAt fsm .readStatus 0xF32D 3 [0x80, 0x10, 0xE1, 0, 0, 0]).es.Kept p := by
  refine ⟨rfl, fun _ => rfl, ⟨fun _ => by simp [esAt, lengthLegal, p], ?_⟩, ?_⟩
  · intro _ _
    simp [esAt]
  · intro _ row h
    cases h
    rfl

/-- ES with a measurement in flight, well kept. -/
theorem kept_measure (fsm : EsFsm) (resp : List Byte) (h : resp.length = 6) :
    (esAt fsm .measure 0x2C10 6 resp).es.Kept p := by
  refine ⟨h, fun _ => rfl, ⟨fun _ => by simp [esAt, lengthLegal, p], ?_⟩, ?_⟩
  · intro _ _
    simp [esAt]
  · intro _ row h
    cases h
    rfl

theorem witness_result :
    ∃ s : State, s.es.Kept s.cfg ∧ s.es.fsm ≠ .idle ∧ s.esStep.es.fsm = .idle :=
  ⟨esAt .validating .readStatus 0xF32D 3 [0x80, 0x10, 0xE1, 0, 0, 0], kept_transaction _,
    by decide +kernel, by decide +kernel⟩

theorem witness_transaction :
    ∃ s : State, s.es.Kept s.cfg ∧ s.es.fsm = .sending ∧ s.cfg.numOut = .exact :=
  ⟨esAt .sending .readStatus 0xF32D 3 [0x80, 0x10, 0xE1, 0, 0, 0], kept_transaction _, rfl, rfl⟩

/-- A finite format holds a value near the temperature 0; so does the exact one near any value. -/
theorem witness_tolerance :
    ∃ r : EsRegs, r.op = .measure ∧ ∃ u : Q, pFormat.numOut.holds u = true ∧
      |u - ((field r.resp 0).toNat * 175 / 65535 - 45 + r.deltaT)| ≤ 1 / 1000000 := by
  refine ⟨{ (esAt .validating .measure 0x2C10 6 []).es with deltaT := 45 }, rfl, 0, ?_, ?_⟩
  · simp [pFormat, NumOut.holds, Config.representable, Config.formatOf]
  · simp [esAt, field]

theorem witness_calibration :
    ∃ (s : State) (qa qb : Q), s.es.fsm = .idle ∧ s.cfg.numOut.holds qa = true ∧
      s.cfg.numOut.holds qb = true := ⟨s0, 5 / 2, -1, rfl, rfl, rfl⟩

theorem witness_exact : ∃ s : State, s.es.fsm = .idle ∧ s.cfg.numOut = .exact := ⟨s0, rfl, rfl⟩

theorem witness_bit_position : ∃ i : Nat, i < 8 := ⟨7, by decide⟩

theorem witness_groups : ∃ n : Nat, n % 3 = 0 ∧ 0 < n := ⟨3, by decide⟩

theorem witness_nonzero_data : ∃ b0 b1 : Byte, b0 ≠ 0 ∨ b1 ≠ 0 := ⟨0, 1, by decide⟩

/-- The state after reset is well kept. -/
theorem s0_inv : s0.Inv := by
  refine ⟨⟨⟨?_, ?_, ?_⟩, ⟨?_, ?_⟩, trivial⟩, ⟨?_, ?_, ⟨?_, ?_⟩, ?_⟩⟩ <;>
    simp [s0, p, State.resetWith, RfRegs.reset, EsRegs.reset, EsRegs.BufferSized, EsRegs.ErrClear,
      EsRegs.RowKept]

theorem witness_inv_step : ∃ s t : State, s.Inv ∧ step s = .next t := ⟨s0, s0, s0_inv, rfl⟩

theorem witness_step : ∃ s t : State, s.env.resetPin = false ∧ step s = .next t :=
  ⟨s0, s0, rfl, rfl⟩

theorem witness_last_err :
    ∃ s t : State, s.env.resetPin = false ∧ step s = .next t ∧ t.es.lastErr ≠ s.es.lastErr :=
  ⟨esAt .validating .readStatus 0xF32D 3 [0x80, 0x10, 0xE0, 0, 0, 0],
    (esAt .validating .readStatus 0xF32D 3 [0x80, 0x10, 0xE0, 0, 0, 0]).esStep, rfl, rfl, by decide +kernel⟩

theorem witness_bus_event :
    ∃ s t : State, s.Inv ∧ step s = .next t ∧
      newEvents s t = [.busWrite 0x45 [0xF3, 0x2D] true] := by
  refine ⟨write (esAt .sending .readStatus 0xF32D 3 [0x80, 0x10, 0xE1, 0, 0, 0]) true,
    (write (esAt .sending .readStatus 0xF32D 3 [0x80, 0x10, 0xE1, 0, 0, 0]) true).esSend,
    ⟨s0_inv.1, kept_transaction _⟩, rfl, by decide⟩

/-- A status word, a pair with one zero field, and a response of zero fields (V-ES-07). -/
theorem witness_zero :
    (∃ s t : State, s.Inv ∧ step s = .next t ∧
      Event.complete .es ⟨.ok, .word 0x8010⟩ ∈ newEvents s t) ∧
    (∃ s t : State, s.Inv ∧ step s = .next t ∧
      Event.complete .es ⟨.ok, .pair (some (-45)) (some (655360 / 13107))⟩ ∈ newEvents s t) ∧
    ∃ s : State, s.es.Kept s.cfg ∧ s.es.fsm = .validating ∧ s.es.op = .measure ∧
      ∀ k, k < s.es.len.toNat / 3 → field s.es.resp k = 0 := by
  refine ⟨⟨esAt .validating .readStatus 0xF32D 3 [0x80, 0x10, 0xE1, 0, 0, 0], _,
      ⟨s0_inv.1, kept_transaction _⟩, rfl, by decide +kernel⟩,
    ⟨esAt .validating .measure 0x2C10 6 [0, 0, 0x81, 0x80, 0, 0xA2], _,
      ⟨s0_inv.1, kept_measure _ _ rfl⟩, rfl, by decide +kernel⟩,
    ⟨esAt .validating .measure 0x2C10 6 [0, 0, 0x81, 0, 0, 0x81], kept_measure _ _ rfl, rfl, rfl,
      by decide⟩⟩

theorem witness_error_result :
    ∃ (s t : State) (u : UnitId) (r : Result), step s = .next t ∧
      Event.complete u r ∈ newEvents s t ∧ r.status ≠ .ok :=
  ⟨rfAt .waitRise 1001 [] [], (rfAt .waitRise 1001 [] []).rfStep, .rf, ⟨.timeout, .nothing⟩, rfl,
    by decide, by decide⟩

end Sys2Proof.Tests
end

section
/-! What a step of the block runs (`00_scope.md` R8, R11), and the values that `MEASURE` delivers (R9, D3). -/

namespace Sys2Proof.Machine

open Sys2Proof.Claims

/-! The unit that moves. -/

/-- Using the choice of unit up leaves both ports as they are. -/
@[simp] theorem State.spendTurn_presented (s : State) (u : UnitId) :
    s.spendTurn.presented u = s.presented u := by
  unfold State.spendTurn
  split
  · cases u <;> rfl
  · rfl

/-- With reset released, a step of the block is a step of the unit that moves. -/
theorem step_of_mover {s : State} {u : UnitId} (hr : s.env.resetPin = false)
    (hm : s.mover = some u) : step s = runUnit u s.spendTurn := by
  cases u <;> simp [step, runBlock, hr, hm, runUnit]

/-- With no request on its port, RF takes the next step of its operation. -/
theorem runRf_of_no_request {s : State} (h : s.presented .rf = none) :
    runRf s = .next s.rfStep := by
  simp [runRf, h]

/-! The sending step: a wire command of the table and an opcode outside it go out by one step (R97). -/

/-- The two bytes of a command frame decode as the opcode they came from (R60, R85). -/
theorem decodeWire_wireBytes (opcode : Half) :
    decodeWire (wireBytes opcode) = decodeOpcode opcode := by
  have happend : opcode.extractLsb' 8 8 ++ opcode.extractLsb' 0 8 = opcode :=
    (BitVec.extractLsb'_append_extractLsb'_eq_extractLsb' (by decide)).trans
      BitVec.extractLsb'_eq_self
  exact congrArg decodeOpcode happend

/-- An opcode that decodes is in the table, with the wire command it decodes to (R90 to R95). -/
theorem mem_wireTable_of_decodeOpcode {opcode : Half} {i : Instr}
    (h : decodeOpcode opcode = .ok i) : (i, opcode) ∈ wireTable := by
  unfold decodeOpcode at h
  split at h <;> rename_i heq <;> cases h
  all_goals simp [wireTable, BitVec.toNat_eq, heq]

/-- A wire command of the table is ES's sending of its opcode. -/
theorem exec_of_mem_wireTable {i : Instr} {opcode : Half} (h : (i, opcode) ∈ wireTable)
    (s : State) : exec i s = .next (s.sendWire opcode) := by
  simp only [wireTable, List.mem_cons, List.not_mem_nil, or_false, Prod.mk.injEq] at h
  rcases h with ⟨rfl, rfl⟩ | ⟨rfl, rfl⟩ | ⟨rfl, rfl⟩ | ⟨rfl, rfl⟩ | ⟨rfl, rfl⟩ | ⟨rfl, rfl⟩ <;> rfl

/-- In the sending step the opcode in flight goes out, whether or not it is in the table. -/
theorem runSending_of_sending {s : State} (h : s.es.fsm = .sending) :
    runSending s = .next s.esSend := by
  unfold runSending
  rw [decodeWire_wireBytes]
  cases hd : decodeOpcode s.es.opc with
  | ok i => simp [exec_of_mem_wireTable (mem_wireTable_of_decodeOpcode hd), sendWire_of_sending h]
  | error e => rfl

/-- With no request on its port, ES takes the next step of its transaction. -/
theorem runEs_of_no_request {s : State} (h : s.presented .es = none) :
    runEs s = .next s.esStep := by
  by_cases hs : s.es.fsm = .sending
  · simp [runEs, h, hs, runSending_of_sending hs, State.esStep]
  · simp [runEs, h, hs]

/-- Settles O8: the step is that of the unit that moves, and a unit with no request takes the next step
of its operation, in ES's sending step too. -/
theorem stepAdvancesTheOperation : Obligations.StepAdvancesTheOperation := by
  intro s hr
  refine ⟨fun hm hp => ?_, fun hm hp => ?_⟩
  · rw [step_of_mover hr hm]
    exact runRf_of_no_request (by simpa using hp)
  · rw [step_of_mover hr hm]
    exact runEs_of_no_request (by simpa using hp)

/-! The values of `MEASURE`. -/

/-- A value of `MEASURE` is presented as R9 and D3 ask. -/
theorem presentMeasure_roundedNear (f : NumOut) (q : Q) : roundedNear f q (presentMeasure f q) :=
  ⟨presentMeasure_holds f q, presentMeasure_of_holds, fun ⟨_, hu, hd⟩ => presentMeasure_near hu hd⟩

/-- `MEASURE` with `OK` delivers the presented temperature and humidity (R176). -/
theorem okResult_measure {r : EsRegs} (h : r.op = .measure) (p : Params) :
    okResult p r =
      ⟨.ok, .pair (some (presentMeasure p.numOut (temperature (field r.resp 0) r.deltaT)))
        (some (presentMeasure p.numOut (humidity (field r.resp 1) r.deltaH)))⟩ := by
  simp [okResult, h]

/-- Settles O38: both values are presented ones, and R178 and R179 give the exact values. -/
theorem measureIsWithinTolerance : Obligations.MeasureIsWithinTolerance := fun p r h =>
  ⟨_, _, okResult_measure h p,
    presentMeasure_roundedNear p.numOut (temperature (field r.resp 0) r.deltaT),
    presentMeasure_roundedNear p.numOut (humidity (field r.resp 1) r.deltaH)⟩

end Sys2Proof.Machine
end

section
/-! The block as two transition systems over its registers (`10_state.md`): what a step can make of the registers
of each unit, and with which events; the invariants that every transition keeps; what follows for the deltas,
`LAST_ERR` and the bus. -/

namespace Sys2Proof.Machine

open Sys2Proof.Claims

/-! Events that a step adds. -/

/-- What a step appends to the history are its new events. -/
theorem newEvents_of_hist {s t : State} {l : List Event} (h : t.hist = s.hist ++ l) :
    newEvents s t = l := by
  simp [newEvents, h]

/-- Events of one unit are no part of the other's history. -/
theorem filter_unit_append {u v : UnitId} (huv : u ≠ v) (h : List Event) {l : List Event}
    (hl : ∀ e ∈ l, e.unit = u) :
    (h ++ l).filter (fun e => e.unit == v) = h.filter (fun e => e.unit == v) := by
  rw [List.filter_append, List.append_right_eq_self, List.filter_eq_nil_iff]
  intro e he
  simp [hl e he, huv]

/-- Settles O54: each unit's step is a function of its own side that records its own events
(`rfStep_local`, `esStep_local`). -/
theorem unitsAreSeparate : Obligations.UnitsAreSeparate := by
  intro s
  constructor
  · obtain ⟨b, l, h, -, hl⟩ := rfStep_local s s ⟨rfl, rfl, rfl, rfl, rfl, rfl⟩
    rw [h]
    exact ⟨rfl, filter_unit_append (by decide) s.hist hl, rfl, rfl, rfl, rfl⟩
  · obtain ⟨b, l, h, -, hl⟩ := esStep_local s s ⟨rfl, rfl, rfl, rfl, rfl, rfl, rfl⟩
    rw [h]
    exact ⟨rfl, filter_unit_append (by decide) s.hist hl, rfl, rfl, rfl⟩

/-- Settles O1: the reset value of each register is written in `RfRegs.reset` and `EsRegs.reset`. -/
theorem resetRegisters : Obligations.ResetRegisters := fun _ =>
  ⟨rfl, rfl, rfl, rfl, rfl, rfl, rfl, rfl, rfl, rfl, rfl, rfl⟩

/-! Unit RF. -/

/-- The transitions of RF's registers (R82, R113 to R119, R237). -/
inductive RfTrans (p : Params) (r : RfRegs) : RfRegs → Prop
  /-- Nothing to do, or a request that is not accepted. -/
  | hold : RfTrans p r r
  /-- R113. -/
  | accept (op : RfOp) (h : r.fsm = .idle) :
    RfTrans p r
      { r with
        op := op, cnt := 0, cntRun := true, startV := false, endV := false, trig := true,
        fsm := .trig }
  /-- R114. -/
  | trigger {k : Nat} (h : r.fsm = .trig) (hk : k ≤ p.advMax) :
    RfTrans p r
      { r with cnt := (r.cnt + (Config.trigTicks + k)) % p.period, trig := false, fsm := .waitRise }
  /-- R115, a low sample. -/
  | low {k : Nat} (h : r.fsm = .waitRise) (hc : r.cnt ≤ p.tMax) (hk : k ≤ p.advMax) :
    RfTrans p r { r with start := r.cnt, startV := true, cnt := (r.cnt + k) % p.period }
  /-- R115, a high sample. -/
  | rise {k : Nat} (h : r.fsm = .waitRise) (hc : r.cnt ≤ p.tMax) (hk : k ≤ p.advMax) :
    RfTrans p r { r with fsm := .waitFall, cnt := (r.cnt + k) % p.period }
  /-- R116, a high sample. -/
  | high {k : Nat} (h : r.fsm = .waitFall) (hc : r.cnt ≤ p.tMax) (hk : k ≤ p.advMax) :
    RfTrans p r { r with end_ := r.cnt, endV := true, cnt := (r.cnt + k) % p.period }
  /-- R117 to R119, R122: the finish, or a poll above `T_MAX`. -/
  | ends {c : Nat} (h : r.fsm = .waitRise ∨ r.fsm = .waitFall) (hc : c < p.period) :
    RfTrans p r { r with fsm := .idle, cntRun := false, cnt := c }

/-- A poll step of the first loop within `T_MAX`. -/
theorem rfPollRise_trans {s : State} (h : s.rf.fsm = .waitRise) (hc : s.rf.cnt ≤ s.cfg.tMax) :
    RfTrans s.cfg s.rf s.rfPollRise.rf := by
  unfold State.rfPollRise
  rw [if_neg (Nat.not_lt.2 hc)]
  cases s.echoDraw with
  | false => exact .low h hc s.advDraw_le
  | true => exact .rise h hc s.advDraw_le

/-- The finish stops the counter and leaves the captures, whatever it delivers (R117, R122). -/
theorem rfFinish_rf (s : State) :
    s.rfFinish.rf = { s.rf with fsm := .idle, cntRun := false, cnt := s.stoppedCnt } := by
  unfold State.rfFinish
  split <;> rfl

/-- A poll step of the second loop within `T_MAX`. -/
theorem rfPollFall_trans {s : State} (h : s.rf.fsm = .waitFall) (hc : s.rf.cnt ≤ s.cfg.tMax) :
    RfTrans s.cfg s.rf s.rfPollFall.rf := by
  unfold State.rfPollFall
  rw [if_neg (Nat.not_lt.2 hc)]
  cases s.echoDraw with
  | true => exact .high h hc s.advDraw_le
  | false =>
    simp only [Bool.false_eq_true, if_false, rfFinish_rf]
    exact .ends (.inr h) (State.stoppedCnt_lt _)

/-- RF's next step is a transition. -/
theorem rfStep_trans (s : State) : RfTrans s.cfg s.rf s.rfStep.rf := by
  obtain ⟨-, e⟩ | ⟨h, e⟩ | ⟨h, -, e⟩ | ⟨h, hc, e⟩ | ⟨h, hc, e⟩ := rfStep_cases s <;> rw [e]
  · exact .hold
  · exact .trigger h s.advDraw_le
  · exact .ends h s.stoppedCnt_lt
  · exact rfPollRise_trans h hc
  · exact rfPollFall_trans h hc

/-- A request for RF is accepted, or changes none of its registers. -/
theorem rfRequest_trans (s : State) (i : Instr) (op : RfOp) :
    RfTrans s.cfg s.rf (s.rfRequest i op).rf := by
  obtain ⟨h, e⟩ | ⟨-, e⟩ := rfRequest_cases s i op <;> rw [e]
  · simpa [State.rfAccept] using RfTrans.accept op h
  · simpa using RfTrans.hold

/-- A step of RF, its requests among them, is a transition. -/
theorem runRf_trans {s t : State} (h : runRf s = .next t) : RfTrans s.cfg s.rf t.rf := by
  have hw : RfTrans s.cfg s.rf (s.withdraw .rf).rf := by simpa using RfTrans.hold
  unfold runRf at h
  cases hp : s.presented .rf with
  | none => rw [hp] at h; cases h; exact rfStep_trans s
  | some r =>
    simp only [hp, runRequest] at h
    cases hd : decodeHost r.fields with
    | error e => rw [hd] at h; cases h; exact hw
    | ok i =>
      simp only [hd] at h
      by_cases hi : i.unit = .rf
      · rw [if_pos hi] at h
        cases i with
        | measureCm => cases h; exact rfRequest_trans s _ _
        | measureIn => cases h; exact rfRequest_trans s _ _
        | _ => cases hi
      · rw [if_neg hi] at h; cases h; exact hw

/-- A step of RF leaves the parameters and ES's registers, and records events of RF only. -/
theorem runRf_frame {s t : State} (h : runRf s = .next t) :
    t.cfg = s.cfg ∧ t.es = s.es ∧ ∃ l, t.hist = s.hist ++ l ∧ ∀ e ∈ l, e.unit = .rf := by
  obtain ⟨f, hf, he⟩ := runRf_local
  obtain ⟨b, l, hg, -, hl⟩ := hf s s ⟨rfl, rfl, rfl, rfl, rfl, rfl⟩
  rw [he, hg] at h
  cases h
  exact ⟨rfl, rfl, l, rfl, hl⟩

/-- Within `T_MAX` the advance of one step does not reach the period (R6, R121). -/
theorem advance_lt_period {p : Params} {c k : Nat} (hc : c ≤ p.tMax) (hk : k ≤ p.advMax) :
    c + k < p.period :=
  Nat.lt_of_le_of_lt (Nat.add_le_add hc hk) p.no_wrap

theorem advance_mod_period {p : Params} {c k : Nat} (hc : c ≤ p.tMax) (hk : k ≤ p.advMax) :
    (c + k) % p.period = c + k :=
  Nat.mod_eq_of_lt (advance_lt_period hc hk)

theorem RfRegs.reset_kept (p : Params) : RfRegs.reset.Kept p := by
  have hp : 0 < p.period := Nat.zero_lt_of_lt p.no_wrap
  exact ⟨⟨hp, hp, hp⟩, by simp [RfRegs.PhaseBits, RfRegs.reset], trivial⟩

/-- Every transition of RF keeps its invariants (R21, R22, R24, R113, R121). -/
theorem RfTrans.kept {p : Params} {r r' : RfRegs} (ht : RfTrans p r r') (hk : r.Kept p) :
    r'.Kept p := by
  obtain ⟨⟨hcnt, hstart, hend⟩, ⟨hrun, htrig⟩, hcap⟩ := id hk
  cases ht with
  | hold => exact hk
  | accept op h =>
    exact ⟨⟨Nat.zero_lt_of_lt hcnt, hstart, hend⟩, by simp [RfRegs.PhaseBits], rfl, rfl, rfl⟩
  | trigger h hadv =>
    simp only [RfRegs.Captures, h] at hcap
    obtain ⟨hzero, hs, he⟩ := hcap
    rw [hzero, Nat.zero_add, advance_mod_period p.trig_le_tMax hadv]
    exact ⟨⟨advance_lt_period p.trig_le_tMax hadv, hstart, hend⟩,
      by simp [RfRegs.PhaseBits, hrun, h],
      Nat.add_le_add p.trig_le_tMax hadv, he, by simp [hs]⟩
  | low h hc hadv =>
    simp only [RfRegs.Captures, h] at hcap
    obtain ⟨-, he, -⟩ := hcap
    rw [advance_mod_period hc hadv]
    refine ⟨⟨advance_lt_period hc hadv, hcnt, hend⟩,
      by simp [RfRegs.PhaseBits, hrun, htrig, h], ?_⟩
    simp only [RfRegs.Captures, h]
    exact ⟨Nat.add_le_add hc hadv, he, fun _ => Nat.le_add_right _ _⟩
  | rise h hc hadv =>
    simp only [RfRegs.Captures, h] at hcap
    obtain ⟨-, he, hs⟩ := hcap
    rw [advance_mod_period hc hadv]
    exact ⟨⟨advance_lt_period hc hadv, hstart, hend⟩,
      by simp [RfRegs.PhaseBits, hrun, htrig, h],
      Nat.add_le_add hc hadv, fun v => Nat.le_add_right_of_le (hs v), by simp [he], by simp [he]⟩
  | high h hc hadv =>
    simp only [RfRegs.Captures, h] at hcap
    obtain ⟨-, hs, -, -⟩ := hcap
    rw [advance_mod_period hc hadv]
    refine ⟨⟨advance_lt_period hc hadv, hstart, hcnt⟩,
      by simp [RfRegs.PhaseBits, hrun, htrig, h], ?_⟩
    simp only [RfRegs.Captures, h]
    exact ⟨Nat.add_le_add hc hadv, fun v => Nat.le_add_right_of_le (hs v),
      fun _ => Nat.le_add_right _ _, fun v _ => hs v⟩
  | ends h hc =>
    refine ⟨⟨hc, hstart, hend⟩, ?_, trivial⟩
    rcases h with h | h <;> simp [RfRegs.PhaseBits, htrig, h]

/-! Unit ES. -/

/-- ES at the end of a transaction with outcome `o` (R148). -/
def EsRegs.ended (r : EsRegs) (o : LastErr) : EsRegs :=
  { r with fsm := .idle, lastErr := if o = .none then r.lastErr else o }

/-- A transaction that the request `i` may start: its operation, wire opcode and response length (R99,
R101, R141). -/
structure Starts (p : Params) (i : Instr) (op : EsOp) (opc : Half) (len : Byte) : Prop where
  performs : performsTransaction i = true
  legal : lengthLegal p len = true
  row : ∀ row, op.row = some row → (opc, len) = row

/-- The transitions of ES's registers, and the events each records (R82, R141 to R149, R185, R186,
R237). -/
inductive EsTrans (p : Params) (r : EsRegs) : EsRegs → List Event → Prop
  /-- Nothing to do, or a request that is not accepted. -/
  | hold : EsTrans p r r []
  /-- R141. -/
  | accept {i : Instr} {op : EsOp} {opc : Half} {len : Byte} (h : r.fsm = .idle)
      (hs : Starts p i op opc len) :
    EsTrans p r { r with op := op, opc := opc, len := len, lastErr := .none, fsm := .sending }
      [.accept .es i]
  /-- R185. -/
  | scan (h : r.fsm = .idle) (a : Option (List Addr7)) :
    EsTrans p r r [.accept .es .isPresent, .busScan a, .complete .es ⟨.ok, .bit (presentIn a)⟩]
  /-- R186. -/
  | calibrate (h : r.fsm = .idle) (qa qb : Q) :
    EsTrans p r { r with deltaT := qa, deltaH := qb }
      [.accept .es (.setCalibration qa qb), .complete .es ⟨.ok, .nothing⟩]
  /-- R142, a response is expected. -/
  | send (h : r.fsm = .sending) (hl : r.len ≠ 0) :
    EsTrans p r { r with fsm := .waitSettle } [.busWrite Config.busAddr (wireBytes r.opc) true]
  /-- R142, no response. -/
  | sendEnds (h : r.fsm = .sending) (hl : r.len = 0) :
    EsTrans p r (r.ended .none)
      [.busWrite Config.busAddr (wireBytes r.opc) true, .complete .es (resultOf p r .none)]
  /-- R143. -/
  | sendFails (h : r.fsm = .sending) :
    EsTrans p r (r.ended .bus)
      [.busWrite Config.busAddr (wireBytes r.opc) false, .complete .es (resultOf p r .bus)]
  /-- R144. -/
  | settle (h : r.fsm = .waitSettle) : EsTrans p r { r with fsm := .reading } []
  /-- R145. -/
  | read {d : List Byte} (h : r.fsm = .reading) (hd : d.length = r.len.toNat) :
    EsTrans p r { r with resp := writeResp r.resp d, fsm := .validating }
      [.busRead Config.busAddr r.len.toNat (some d)]
  /-- R146. -/
  | readFails {resp : List Byte} (h : r.fsm = .reading) (hl : resp.length = r.resp.length) :
    EsTrans p r ({ r with resp := resp }.ended .bus)
      [.busRead Config.busAddr r.len.toNat none,
        .complete .es (resultOf p { r with resp := resp } .bus)]
  /-- R147. -/
  | validates {crc : Byte} {o : LastErr} (h : r.fsm = .validating)
      (ho : o = validate r.resp r.len.toNat) :
    EsTrans p r ({ r with crc := crc }.ended o)
      [.complete .es (resultOf p { r with crc := crc } o)]

/-- `t` comes from `s` by a transition of ES whose events are recorded. -/
def EsActs (s t : State) : Prop := ∃ l, t.hist = s.hist ++ l ∧ EsTrans s.cfg s.es t.es l

theorem esActs_hold {s t : State} (hh : t.hist = s.hist) (he : t.es = s.es) : EsActs s t :=
  ⟨[], by simp [hh], he ▸ .hold⟩

theorem withdraw_acts (s : State) (u : UnitId) : EsActs s (s.withdraw u) :=
  esActs_hold (s.withdraw_hist u) (s.withdraw_es u)

theorem finish_es_ended (s : State) (o : LastErr) : (s.finish o).es = s.es.ended o :=
  s.finish_es o

/-- The sending step (R142, R143). -/
theorem esSend_acts {s : State} (h : s.es.fsm = .sending) : EsActs s s.esSend := by
  unfold State.esSend
  cases s.writeDraw with
  | false => exact ⟨_, List.append_assoc _ _ _, .sendFails h⟩
  | true =>
    rw [if_pos rfl]
    by_cases hl : s.es.len = 0
    · rw [if_pos hl]
      exact ⟨_, List.append_assoc _ _ _, .sendEnds h hl⟩
    · rw [if_neg hl]
      exact ⟨_, rfl, .send h hl⟩

/-- A failed read leaves as many bytes in the buffer as it had (R146). -/
theorem lostResp_length (s : State) : s.lostResp.length = s.es.resp.length := by
  simp [State.lostResp]

/-- The reading step (R145, R146). -/
theorem esRead_acts {s : State} (h : s.es.fsm = .reading) : EsActs s s.esRead := by
  unfold State.esRead
  cases hd : s.readDraw s.es.len.toNat with
  | some d => exact ⟨_, rfl, .read h (s.readDraw_length _ d hd)⟩
  | none => exact ⟨_, List.append_assoc _ _ _, .readFails h (lostResp_length s)⟩

/-- The validating step (R147). -/
theorem esValidate_acts {s : State} (h : s.es.fsm = .validating) : EsActs s s.esValidate := by
  refine ⟨_, State.finish_hist _ _, ?_⟩
  unfold State.esValidate
  rw [finish_es_ended]
  exact .validates h rfl

/-- ES's next step is a transition. -/
theorem esStep_acts (s : State) : EsActs s s.esStep := by
  unfold State.esStep
  cases h : s.es.fsm with
  | idle => exact esActs_hold rfl rfl
  | sending => exact esSend_acts h
  | waitSettle => exact ⟨[], (List.append_nil _).symm, .settle h⟩
  | reading => exact esRead_acts h
  | validating => exact esValidate_acts h

/-- A request for a transaction is accepted, or changes nothing of ES. -/
theorem esRequest_acts {s : State} {legal : Bool} {i : Instr} {op : EsOp} {opc : Half} {len : Byte}
    (hs : legal = true → Starts s.cfg i op opc len) :
    EsActs s (s.esRequest legal i op opc len) := by
  obtain ⟨h, hl, e⟩ | ⟨-, e⟩ := esRequest_cases s legal i op opc len <;> rw [e]
  · exact ⟨[.accept .es i], rfl, .accept h (hs hl)⟩
  · exact withdraw_acts s .es

/-- The lengths of the derived operations are legal in every configuration (R6, R101). -/
theorem starts_of_row {p : Params} {i : Instr} {op : EsOp} {opc : Half} {len : Byte}
    (hi : performsTransaction i = true) (hl : len.toNat % 3 = 0 ∧ len.toNat ≤ 6)
    (hrow : op.row = some (opc, len)) : Starts p i op opc len where
  performs := hi
  legal := by simp [lengthLegal, hl.1, hl.2.trans p.resp_min]
  row := fun row h => Option.some.inj (hrow.symm.trans h)

theorem starts_sendCommand {p : Params} {opa : Half} {opb : Byte} (h : lengthLegal p opb = true) :
    Starts p (.sendCommand opa opb) .sendCommand opa opb :=
  ⟨rfl, h, fun _ hr => nomatch hr⟩

/-- An idle ES that completes keeps its registers. -/
theorem EsRegs.withIdle {r : EsRegs} (h : r.fsm = .idle) : { r with fsm := .idle } = r := by
  rw [← h]

/-- `IS_PRESENT` is done in one step, or changes nothing of ES (R185). -/
theorem execIsPresent_acts {s t : State} (h : execIsPresent s = .next t) : EsActs s t := by
  unfold execIsPresent at h
  by_cases hi : s.es.fsm = .idle
  · simp only [State.esReady, hi, beq_self_eq_true, if_true] at h
    cases h
    refine ⟨[.accept .es .isPresent, .busScan (s.withdraw .es).scanDraw,
        .complete .es ⟨.ok, .bit (presentIn (s.withdraw .es).scanDraw)⟩],
      by simp [State.esScan], ?_⟩
    simpa [State.esScan, EsRegs.withIdle hi] using EsTrans.scan hi _
  · simp only [State.esReady, beq_iff_eq, hi, if_false] at h
    cases h
    exact withdraw_acts s .es

/-- `SET_CALIBRATION` is done in one step, or changes nothing of ES (R99, R186). -/
theorem execSetCalibration_acts {s t : State} {qa qb : Q}
    (h : execSetCalibration qa qb s = .next t) : EsActs s t := by
  unfold execSetCalibration at h
  split at h <;> rename_i hc <;> cases h
  · have hi : s.es.fsm = .idle := by
      simp only [State.esReady, Bool.and_eq_true, beq_iff_eq] at hc
      exact hc.1
    refine ⟨[.accept .es (.setCalibration qa qb), .complete .es ⟨.ok, .nothing⟩],
      by simp [State.esCalibrate], ?_⟩
    simpa [State.esCalibrate, hi] using EsTrans.calibrate hi qa qb
  · exact withdraw_acts s .es

/-- A wire command is ES's sending step, or nothing at all (log entry 17). -/
theorem sendWire_acts (s : State) (opcode : Half) : EsActs s (s.sendWire opcode) := by
  unfold State.sendWire
  split
  · next h => exact esSend_acts h.1
  · exact esActs_hold rfl rfl

/-- An instruction of ES is a transition. -/
theorem exec_es_acts {i : Instr} {s t : State} (hi : i.unit = .es) (h : exec i s = .next t) :
    EsActs s t := by
  cases i with
  | measureCm => cases hi
  | measureIn => cases hi
  | isPresent => exact execIsPresent_acts h
  | setCalibration qa qb => exact execSetCalibration_acts h
  | sendCommand opa opb => cases h; exact esRequest_acts starts_sendCommand
  | measure => cases h; exact esRequest_acts fun _ => starts_of_row rfl (by decide) rfl
  | readStatus => cases h; exact esRequest_acts fun _ => starts_of_row rfl (by decide) rfl
  | softReset => cases h; exact esRequest_acts fun _ => starts_of_row rfl (by decide) rfl
  | clearStatus => cases h; exact esRequest_acts fun _ => starts_of_row rfl (by decide) rfl
  | heaterOn => cases h; exact esRequest_acts fun _ => starts_of_row rfl (by decide) rfl
  | heaterOff => cases h; exact esRequest_acts fun _ => starts_of_row rfl (by decide) rfl
  | measHrepCs => cases h; exact sendWire_acts s _
  | status => cases h; exact sendWire_acts s _
  | softResetCmd => cases h; exact sendWire_acts s _
  | clearStatusCmd => cases h; exact sendWire_acts s _
  | heaterEnable => cases h; exact sendWire_acts s _
  | heaterDisable => cases h; exact sendWire_acts s _

/-- A step of ES, its requests among them, is a transition. -/
theorem runEs_acts {s t : State} (h : runEs s = .next t) : EsActs s t := by
  cases hp : s.presented .es with
  | none => rw [runEs_of_no_request hp] at h; cases h; exact esStep_acts s
  | some r =>
    simp only [runEs, hp, runRequest] at h
    cases hd : decodeHost r.fields with
    | error e => rw [hd] at h; cases h; exact withdraw_acts s .es
    | ok i =>
      simp only [hd] at h
      by_cases hi : i.unit = .es
      · rw [if_pos hi] at h; exact exec_es_acts hi h
      · rw [if_neg hi] at h; cases h; exact withdraw_acts s .es

/-- A step of ES leaves the parameters and RF's registers. -/
theorem runEs_frame {s t : State} (h : runEs s = .next t) : t.cfg = s.cfg ∧ t.rf = s.rf := by
  obtain ⟨f, hf, he⟩ := runEs_local
  obtain ⟨b, l, hg, -, -⟩ := hf s s ⟨rfl, rfl, rfl, rfl, rfl, rfl, rfl⟩
  rw [he, hg] at h
  cases h
  exact ⟨rfl, rfl⟩

/-- With ES idle only the size of its buffer is left to keep (R28). -/
theorem EsRegs.kept_of_idle {p : Params} {r : EsRegs} (h : r.fsm = .idle)
    (hb : r.resp.length = p.respMax) : r.Kept p :=
  ⟨hb, fun hf => absurd h hf, ⟨fun hf => absurd h hf, fun hf => absurd h hf⟩,
    fun hf => absurd h hf⟩

theorem EsRegs.reset_kept (p : Params) : (EsRegs.reset p).Kept p :=
  EsRegs.kept_of_idle rfl List.length_replicate

/-- A legal length of a response that is expected (R63, R99). -/
theorem lengthLegal_bounds {p : Params} {len : Byte} (h : lengthLegal p len = true) (h0 : len ≠ 0) :
    len.toNat % 3 = 0 ∧ 3 ≤ len.toNat ∧ len.toNat ≤ p.respMax := by
  simp only [lengthLegal, Bool.and_eq_true, beq_iff_eq, decide_eq_true_eq] at h
  obtain ⟨h3, hmax⟩ := h
  have hpos : len.toNat ≠ 0 := fun hz => h0 (BitVec.eq_of_toNat_eq hz)
  exact ⟨h3, by omega, hmax⟩

/-- Bytes read into the buffer leave its size (R28, R145). -/
theorem writeResp_length {resp d : List Byte} (h : d.length ≤ resp.length) :
    (writeResp resp d).length = resp.length := by
  simp only [writeResp, List.length_append, List.length_drop]
  omega

/-- Every transition of ES keeps its invariants (R28, R30, R63, R99, R101). -/
theorem EsTrans.kept {p : Params} {r r' : EsRegs} {l : List Event} (ht : EsTrans p r r' l)
    (hk : r.Kept p) : r'.Kept p := by
  obtain ⟨hbuf, herr, ⟨hlegal, hlen⟩, hrow⟩ := id hk
  cases ht with
  | hold => exact hk
  | scan h a => exact hk
  | accept h hs =>
    exact ⟨hbuf, fun _ => rfl, ⟨fun _ => hs.legal, fun _ hn => absurd rfl hn⟩, fun _ => hs.row⟩
  | calibrate h qa qb => exact EsRegs.kept_of_idle h hbuf
  | sendEnds h hl => exact EsRegs.kept_of_idle rfl hbuf
  | sendFails h => exact EsRegs.kept_of_idle rfl hbuf
  | readFails h hl => exact EsRegs.kept_of_idle rfl (hl.trans hbuf)
  | validates h ho => exact EsRegs.kept_of_idle rfl hbuf
  | send h hl =>
    have hf : r.fsm ≠ .idle := by simp [h]
    exact ⟨hbuf, fun _ => herr hf, ⟨fun _ => hlegal hf, fun _ _ => hl⟩, fun _ => hrow hf⟩
  | settle h =>
    have hf : r.fsm ≠ .idle := by simp [h]
    have hs : r.fsm ≠ .sending := by simp [h]
    exact ⟨hbuf, fun _ => herr hf, ⟨fun _ => hlegal hf, fun _ _ => hlen hf hs⟩, fun _ => hrow hf⟩
  | read h hd =>
    have hf : r.fsm ≠ .idle := by simp [h]
    have hs : r.fsm ≠ .sending := by simp [h]
    obtain ⟨-, -, hmax⟩ := lengthLegal_bounds (hlegal hf) (hlen hf hs)
    have hfit : (writeResp r.resp _).length = r.resp.length :=
      writeResp_length (hd.trans_le (hmax.trans_eq hbuf.symm))
    exact ⟨hfit.trans hbuf, fun _ => herr hf, ⟨fun _ => hlegal hf, fun _ _ => hlen hf hs⟩,
      fun _ => hrow hf⟩

/-- A transition that changes the deltas is an accepted `SET_CALIBRATION` (R28, R186). -/
theorem EsTrans.deltas {p : Params} {r r' : EsRegs} {l : List Event} (ht : EsTrans p r r' l) :
    (r'.deltaT = r.deltaT ∧ r'.deltaH = r.deltaH) ∨
      Event.accept .es (.setCalibration r'.deltaT r'.deltaH) ∈ l := by
  cases ht with
  | calibrate h qa qb => exact .inr List.mem_cons_self
  | _ => exact .inl ⟨rfl, rfl⟩

theorem resultOf_status (p : Params) (r : EsRegs) (o : LastErr) :
    (resultOf p r o).status = Status.ofOutcome o := by
  cases o <;> rfl

/-- A transaction that ends with another `LAST_ERR` delivers that class (R148, R213). -/
theorem ended_delivers {p : Params} {r q : EsRegs} {o : LastErr} {l : List Event}
    (hne : (r.ended o).lastErr ≠ r.lastErr) (hl : Event.complete .es (resultOf p q o) ∈ l) :
    (r.ended o).lastErr ≠ .none ∧
      ∃ res, res.status = Status.ofOutcome (r.ended o).lastErr ∧ Event.complete .es res ∈ l := by
  by_cases ho : o = .none
  · simp [EsRegs.ended, ho] at hne
  · have he : (r.ended o).lastErr = o := if_neg ho
    rw [he]
    exact ⟨ho, _, resultOf_status p q o, hl⟩

/-- A transition that changes `LAST_ERR` accepts a transaction or delivers the new class (R30, R150). -/
theorem EsTrans.lastErr {p : Params} {r r' : EsRegs} {l : List Event} (ht : EsTrans p r r' l)
    (hne : r'.lastErr ≠ r.lastErr) :
    (r'.lastErr = .none ∧ ∃ i, performsTransaction i = true ∧ Event.accept .es i ∈ l) ∨
      (r'.lastErr ≠ .none ∧
        ∃ res, res.status = Status.ofOutcome r'.lastErr ∧ Event.complete .es res ∈ l) := by
  cases ht with
  | accept h hs => exact .inl ⟨rfl, _, hs.performs, List.mem_cons_self⟩
  | sendEnds h hl => exact .inr (ended_delivers hne (.tail _ (.head _)))
  | sendFails h => exact .inr (ended_delivers hne (.tail _ (.head _)))
  | readFails h hl => exact .inr (ended_delivers hne (.tail _ (.head _)))
  | validates h ho => exact .inr (ended_delivers hne (.head _))
  | _ => exact absurd rfl hne

/-- The read that a well-kept ES issues in its reading step is an allowed one (R58, R63). -/
theorem EsRegs.Kept.read_allowed {p : Params} {r : EsRegs} (hk : r.Kept p) (h : r.fsm = .reading)
    {a : Option (List Byte)} (ha : ∀ d, a = some d → d.length = r.len.toNat) :
    busEventAllowed p (.busRead Config.busAddr r.len.toNat a) := by
  obtain ⟨-, -, ⟨hlegal, hlen⟩, -⟩ := hk
  obtain ⟨h3, hmin, hmax⟩ :=
    lengthLegal_bounds (hlegal (by simp [h])) (hlen (by simp [h]) (by simp [h]))
  exact ⟨rfl, h3, hmin, hmax, ha⟩

/-- A command frame is an allowed write (R27, R57, R85). -/
theorem frame_allowed (p : Params) (opc : Half) (ok : Bool) :
    busEventAllowed p (.busWrite Config.busAddr (wireBytes opc) ok) := ⟨rfl, rfl⟩

/-- Results are no bus transfers. -/
theorem complete_allowed (p : Params) (u : UnitId) (res : Result) :
    busEventAllowed p (.complete u res) := trivial

/-- RF has no bus. -/
theorem allowed_of_rf {p : Params} {e : Event} (h : e.unit = .rf) : busEventAllowed p e := by
  cases e with
  | busWrite => cases h
  | busRead => cases h
  | _ => trivial

/-- The bus events of a transition are allowed ones (R27, R57, R58, R63). -/
theorem EsTrans.busEvents_allowed {p : Params} {r r' : EsRegs} {l : List Event}
    (ht : EsTrans p r r' l) (hk : r.Kept p) : ∀ e ∈ l, busEventAllowed p e := by
  cases ht with
  | send h hl => simp [frame_allowed]
  | sendEnds h hl => simp [frame_allowed, complete_allowed]
  | sendFails h => simp [frame_allowed, complete_allowed]
  | read h hd => simpa using hk.read_allowed h (by simp [hd])
  | readFails h hl => simpa [complete_allowed] using hk.read_allowed h (by simp)
  | _ => simp [busEventAllowed]

/-! The block. -/

/-- Reset is taken before anything else (R252). -/
theorem step_of_reset {s : State} (hr : s.env.resetPin = true) : step s = .next s.applyReset := by
  simp [step, runBlock, hr]

/-- A step at which reset is not applied is a transition of one unit; the other keeps its registers. -/
theorem step_trans {s t : State} (hr : s.env.resetPin = false) (h : step s = .next t) :
    t.cfg = s.cfg ∧
      ((RfTrans s.cfg s.rf t.rf ∧ t.es = s.es ∧ ∀ e ∈ newEvents s t, e.unit = .rf) ∨
        (t.rf = s.rf ∧ EsTrans s.cfg s.es t.es (newEvents s t))) := by
  obtain ⟨hr', -⟩ | ⟨-, -, e⟩ | ⟨-, -, e⟩ | ⟨-, -, e⟩ := step_cases s
  · simp [hr] at hr'
  · rw [e] at h
    obtain ⟨hcfg, hes, l, hl, hu⟩ := runRf_frame h
    have hrf := runRf_trans h
    simp only [State.spendTurn_cfg, State.spendTurn_rf, State.spendTurn_es,
      State.spendTurn_hist] at hcfg hes hl hrf
    exact ⟨hcfg, .inl ⟨hrf, hes, newEvents_of_hist hl ▸ hu⟩⟩
  · rw [e] at h
    obtain ⟨hcfg, hrf⟩ := runEs_frame h
    obtain ⟨l, hl, hes⟩ := runEs_acts h
    simp only [State.spendTurn_cfg, State.spendTurn_rf, State.spendTurn_es,
      State.spendTurn_hist] at hcfg hrf hl hes
    exact ⟨hcfg, .inr ⟨hrf, newEvents_of_hist hl ▸ hes⟩⟩
  · rw [e] at h
    cases h
    refine ⟨rfl, .inr ⟨rfl, ?_⟩⟩
    rw [newEvents_of_hist (List.append_nil _).symm]
    exact .hold

/-- Settles O51: RF's and ES's reset values are well kept. -/
theorem resetHasTheInvariants : Obligations.ResetHasTheInvariants := fun p =>
  ⟨RfRegs.reset_kept p, EsRegs.reset_kept p⟩

/-- Settles O50: reset gives well-kept registers, and else the unit that moves makes a transition, which
keeps its invariants. -/
theorem stepKeepsTheInvariants : Obligations.StepKeepsTheInvariants := by
  rintro s t ⟨hrf, hes⟩ h
  cases hr : s.env.resetPin with
  | true =>
    rw [step_of_reset hr] at h
    cases h
    exact ⟨RfRegs.reset_kept s.cfg, EsRegs.reset_kept s.cfg⟩
  | false =>
    obtain ⟨hcfg, ⟨ht, he, -⟩ | ⟨he, ht⟩⟩ := step_trans hr h
    · exact ⟨hcfg ▸ ht.kept hrf, by rwa [he, hcfg]⟩
    · exact ⟨by rwa [he, hcfg], hcfg ▸ ht.kept hes⟩

/-- Settles O56: of ES's transitions only the calibration writes the deltas, and RF's leave ES. -/
theorem onlyCalibrationWritesDeltas : Obligations.OnlyCalibrationWritesDeltas := by
  intro s t hr h
  obtain ⟨-, ⟨-, he, -⟩ | ⟨-, ht⟩⟩ := step_trans hr h
  · exact .inl (by simp [he])
  · exact ht.deltas

/-- Settles O57: of ES's transitions an acceptance clears `LAST_ERR`, an ending delivers its class, and no
other writes it; RF's leave ES. -/
theorem onlyTransactionsWriteLastErr : Obligations.OnlyTransactionsWriteLastErr := by
  intro s t hr h hne
  obtain ⟨-, ⟨-, he, -⟩ | ⟨-, ht⟩⟩ := step_trans hr h
  · exact absurd (by rw [he]) hne
  · exact ht.lastErr hne

/-- Settles O58: reset records no event, RF's transitions none of the bus, and ES's only allowed ones. -/
theorem busEventsAreAllowed : Obligations.BusEventsAreAllowed := by
  rintro s t ⟨-, hes⟩ h e he
  cases hr : s.env.resetPin with
  | true =>
    rw [step_of_reset hr] at h
    cases h
    simp [newEvents] at he
  | false =>
    obtain ⟨-, ⟨-, -, hu⟩ | ⟨-, ht⟩⟩ := step_trans hr h
    · exact allowed_of_rf (hu e he)
    · exact ht.busEvents_allowed hes e he

end Sys2Proof.Machine
end

section
/-! Interleavings of the two units' steps (`20_memory.md` R68): steps of different units commute up to the order of
the history between units, so an order of steps may be rearranged into any other with the same steps. -/

namespace Sys2Proof.Machine

open Sys2Proof.Claims

/-! `sameButInterleaving`, and what grafting one unit's side does to it. -/

theorem sameButInterleaving_refl (s : State) : sameButInterleaving s s :=
  ⟨rfl, rfl, rfl, rfl, rfl, rfl⟩

theorem sameButInterleaving_trans {s t r : State} (h : sameButInterleaving s t)
    (h' : sameButInterleaving t r) : sameButInterleaving s r := by
  obtain ⟨hcfg, hrf, hes, henv, hhr, hhe⟩ := h
  obtain ⟨hcfg', hrf', hes', henv', hhr', hhe'⟩ := h'
  exact ⟨hcfg.trans hcfg', hrf.trans hrf', hes.trans hes', henv.trans henv', hhr.trans hhr',
    hhe.trans hhe'⟩

theorem sameButInterleaving_symm {s t : State} (h : sameButInterleaving s t) :
    sameButInterleaving t s := by
  obtain ⟨hcfg, hrf, hes, henv, hhr, hhe⟩ := h
  exact ⟨hcfg.symm, hrf.symm, hes.symm, henv.symm, hhr.symm, hhe.symm⟩

/-- Recorded events of a unit extend its history. -/
theorem filter_unit_append_self {u : UnitId} (h : List Event) {l : List Event}
    (hl : ∀ e ∈ l, e.unit = u) :
    (h ++ l).filter (fun e => e.unit == u) = h.filter (fun e => e.unit == u) ++ l := by
  rw [List.filter_append, List.filter_eq_self (l := l).2 fun e he => by simp [hl e he]]

theorem unitHist_rf_graftRf (s b : State) {l : List Event} (hl : ∀ e ∈ l, e.unit = .rf) :
    (s.graftRf b l).unitHist .rf = s.unitHist .rf ++ l :=
  filter_unit_append_self s.hist hl

theorem unitHist_es_graftRf (s b : State) {l : List Event} (hl : ∀ e ∈ l, e.unit = .rf) :
    (s.graftRf b l).unitHist .es = s.unitHist .es :=
  filter_unit_append (by decide) s.hist hl

theorem unitHist_es_graftEs (s b : State) {l : List Event} (hl : ∀ e ∈ l, e.unit = .es) :
    (s.graftEs b l).unitHist .es = s.unitHist .es ++ l :=
  filter_unit_append_self s.hist hl

theorem unitHist_rf_graftEs (s b : State) {l : List Event} (hl : ∀ e ∈ l, e.unit = .es) :
    (s.graftEs b l).unitHist .rf = s.unitHist .rf :=
  filter_unit_append (by decide) s.hist hl

theorem sameButInterleaving_graftRf {s s' : State} (h : sameButInterleaving s s') (b : State)
    {l : List Event} (hl : ∀ e ∈ l, e.unit = .rf) :
    sameButInterleaving (s.graftRf b l) (s'.graftRf b l) := by
  obtain ⟨hcfg, -, hes, henv, hhr, hhe⟩ := h
  refine ⟨hcfg, rfl, hes, by simp [State.graftRf, henv], ?_, ?_⟩
  · rw [unitHist_rf_graftRf s b hl, unitHist_rf_graftRf s' b hl, hhr]
  · rw [unitHist_es_graftRf s b hl, unitHist_es_graftRf s' b hl, hhe]

theorem sameButInterleaving_graftEs {s s' : State} (h : sameButInterleaving s s') (b : State)
    {l : List Event} (hl : ∀ e ∈ l, e.unit = .es) :
    sameButInterleaving (s.graftEs b l) (s'.graftEs b l) := by
  obtain ⟨hcfg, hrf, -, henv, hhr, hhe⟩ := h
  refine ⟨hcfg, hrf, rfl, by simp [State.graftEs, henv], ?_, ?_⟩
  · rw [unitHist_rf_graftEs s b hl, unitHist_rf_graftEs s' b hl, hhr]
  · rw [unitHist_es_graftEs s b hl, unitHist_es_graftEs s' b hl, hhe]

/-- Sides of different units can be grafted in either order. -/
theorem sameButInterleaving_graft_comm (s b c : State) {l m : List Event}
    (hl : ∀ e ∈ l, e.unit = .rf) (hm : ∀ e ∈ m, e.unit = .es) :
    sameButInterleaving ((s.graftRf b l).graftEs c m) ((s.graftEs c m).graftRf b l) := by
  refine ⟨rfl, rfl, rfl, rfl, ?_, ?_⟩
  · rw [unitHist_rf_graftEs _ c hm, unitHist_rf_graftRf s b hl, unitHist_rf_graftRf _ b hl,
      unitHist_rf_graftEs s c hm]
  · rw [unitHist_es_graftEs _ c hm, unitHist_es_graftRf s b hl, unitHist_es_graftRf _ b hl,
      unitHist_es_graftEs s c hm]

/-! Steps of one unit: what they make of states that are the same, and that they commute with the other's. -/

theorem SameRf.of_sameButInterleaving {s s' : State} (h : sameButInterleaving s s') :
    SameRf s s' := by
  obtain ⟨hcfg, hrf, -, henv, -, -⟩ := h
  simp [SameRf, hcfg, hrf, henv]

theorem SameEs.of_sameButInterleaving {s s' : State} (h : sameButInterleaving s s') :
    SameEs s s' := by
  obtain ⟨hcfg, -, hes, henv, -, -⟩ := h
  simp [SameEs, hcfg, hes, henv]

theorem LocalRf.keeps_same {f : State → State} (hf : LocalRf f) {s s' : State}
    (h : sameButInterleaving s s') : sameButInterleaving (f s) (f s') := by
  obtain ⟨b, l, hs, hs', hl⟩ := hf s s' (.of_sameButInterleaving h)
  rw [hs, hs']
  exact sameButInterleaving_graftRf h b hl

theorem LocalEs.keeps_same {f : State → State} (hf : LocalEs f) {s s' : State}
    (h : sameButInterleaving s s') : sameButInterleaving (f s) (f s') := by
  obtain ⟨b, l, hs, hs', hl⟩ := hf s s' (.of_sameButInterleaving h)
  rw [hs, hs']
  exact sameButInterleaving_graftEs h b hl

/-- Neither of an RF step `f` and an ES step `g` can tell whether the other has been taken before it. -/
theorem LocalRf.comm {f g : State → State} (hf : LocalRf f) (hg : LocalEs g) (s : State) :
    sameButInterleaving (g (f s)) (f (g s)) := by
  have hsf : SameEs s (f s) := by
    obtain ⟨b, l, h, -, -⟩ := hf s s ⟨rfl, rfl, rfl, rfl, rfl, rfl⟩
    rw [h]
    exact ⟨rfl, rfl, rfl, rfl, rfl, rfl, rfl⟩
  obtain ⟨c, m, hgs, hgf, hm⟩ := hg s (f s) hsf
  have hsg : SameRf s (g s) := by
    rw [hgs]
    exact ⟨rfl, rfl, rfl, rfl, rfl, rfl⟩
  obtain ⟨b, l, hfs, hfg, hl⟩ := hf s (g s) hsg
  rw [hgf, hfg, hfs, hgs]
  exact sameButInterleaving_graft_comm s b c hl hm

/-! Runs. -/

/-- Both outcomes are next states, the same but for the interleaving. -/
def SameNext (o o' : Host.Outcome State Fault Refusal) : Prop :=
  ∃ t t', o = .next t ∧ o' = .next t' ∧ sameButInterleaving t t'

theorem SameNext.trans {o o' o'' : Host.Outcome State Fault Refusal} (h : SameNext o o')
    (h' : SameNext o' o'') : SameNext o o'' := by
  obtain ⟨t, t', ho, ho', ht⟩ := h
  obtain ⟨r, r', ho'', hr', hr⟩ := h'
  obtain rfl : t' = r := Host.Outcome.next.inj (ho'.symm.trans ho'')
  exact ⟨t, r', ho, hr', sameButInterleaving_trans ht hr⟩

theorem SameNext.symm {o o' : Host.Outcome State Fault Refusal} (h : SameNext o o') :
    SameNext o' o := by
  obtain ⟨t, t', ho, ho', ht⟩ := h
  exact ⟨t', t, ho', ho, sameButInterleaving_symm ht⟩

/-- A run whose first step answers `t` goes on from `t`. -/
theorem runUnits_cons {u : UnitId} {s t : State} (h : runUnit u s = .next t)
    (order : List UnitId) : runUnits (u :: order) s = runUnits order t := by
  simp [runUnits, h]

/-- A unit's step answers a next state, from states that agree one that agrees. -/
theorem runUnit_same (u : UnitId) {s s' : State} (h : sameButInterleaving s s') :
    SameNext (runUnit u s) (runUnit u s') := by
  cases u with
  | rf =>
    obtain ⟨f, hf, hrun⟩ := runRf_local
    exact ⟨f s, f s', hrun s, hrun s', hf.keeps_same h⟩
  | es =>
    obtain ⟨g, hg, hrun⟩ := runEs_local
    exact ⟨g s, g s', hrun s, hrun s', hg.keeps_same h⟩

theorem runUnits_same (order : List UnitId) {s s' : State} (h : sameButInterleaving s s') :
    SameNext (runUnits order s) (runUnits order s') := by
  induction order generalizing s s' with
  | nil => exact ⟨s, s', rfl, rfl, h⟩
  | cons u order ih =>
    obtain ⟨t, t', ht, ht', hsame⟩ := runUnit_same u h
    rw [runUnits_cons ht, runUnits_cons ht']
    exact ih hsame

/-- A step of RF and one of ES in either order, before the same further steps. -/
theorem runUnits_rf_es_comm (order : List UnitId) (s : State) :
    SameNext (runUnits (.rf :: .es :: order) s) (runUnits (.es :: .rf :: order) s) := by
  obtain ⟨f, hf, (hrf : ∀ s, runUnit .rf s = .next (f s))⟩ := runRf_local
  obtain ⟨g, hg, (hes : ∀ s, runUnit .es s = .next (g s))⟩ := runEs_local
  have hrfes : runUnits (.rf :: .es :: order) s = runUnits order (g (f s)) :=
    (runUnits_cons (hrf s) _).trans (runUnits_cons (hes (f s)) _)
  have hesrf : runUnits (.es :: .rf :: order) s = runUnits order (f (g s)) :=
    (runUnits_cons (hes s) _).trans (runUnits_cons (hrf (g s)) _)
  rw [hrfes, hesrf]
  exact runUnits_same order (hf.comm hg s)

/-- An order of steps may be rearranged: it suffices to exchange two adjacent steps, which changes nothing for
two of one unit and commutes for one of each. -/
theorem runUnits_perm {order order' : List UnitId} (h : order.Perm order') (s : State) :
    SameNext (runUnits order s) (runUnits order' s) := by
  induction h generalizing s with
  | nil => exact runUnits_same [] (sameButInterleaving_refl s)
  | cons u _ ih =>
    obtain ⟨t, -, ht, -, -⟩ := runUnit_same u (sameButInterleaving_refl s)
    rw [runUnits_cons ht, runUnits_cons ht]
    exact ih t
  | swap u v order =>
    cases u <;> cases v
    case rf.es => exact (runUnits_rf_es_comm order s).symm
    case es.rf => exact runUnits_rf_es_comm order s
    all_goals exact runUnits_same _ (sameButInterleaving_refl s)
  | trans _ _ ih ih' => exact (ih s).trans (ih' s)

/-- Every order is a rearrangement of all its RF steps and then all its ES steps. -/
theorem perm_rf_then_es (order : List UnitId) :
    order.Perm
      (List.replicate (order.count .rf) .rf ++ List.replicate (order.count .es) .es) :=
  (List.perm_replicate_append_replicate (by decide)).2
    ⟨rfl, rfl, fun u _ => by cases u <;> simp⟩

/-- Settles O55: the order and the run of one unit after the other take the same steps, rearranged. -/
theorem interleavingsAreEquivalent : Obligations.InterleavingsAreEquivalent :=
  fun order s => runUnits_perm (perm_rf_then_es order) s

end Sys2Proof.Machine
end

section
/-! The encoding (`30_encoding.md`): decoder and encoder, what a step makes of the request on a port, and the
wire commands as ES's sending step. -/

namespace Sys2Proof.Machine

open Sys2Proof.Claims

/-! Decoder and encoder (R80 to R96). -/

/-- R81 is the encoder's host table, read backwards; an unused field does not matter. -/
theorem used_eq_encode_of_decodeHost {f : HostFields} {i : Instr} (h : decodeHost f = .ok i) :
    used i (.host f) = encode i := by
  unfold decodeHost at h
  split at h <;> rename_i heq <;> cases h
  all_goals simp [used, encode, HostFields.ofCode, BitVec.toNat_eq, heq]

/-- The words of a wire command are the frame of its opcode (R85). -/
theorem encode_of_mem_wireTable :
    ∀ row ∈ wireTable, encode row.1 = .wire (wireBytes row.2) := by decide

/-- A frame is the high byte of its opcode and then the low byte (R60, R85). -/
theorem wireBytes_append (hi lo : Byte) : wireBytes (hi ++ lo) = [hi, lo] :=
  congrArg₂ (fun a b => [a, b]) BitVec.extractLsb'_append_eq_left
    BitVec.extractLsb'_append_eq_right

/-- Bytes that decode are the frame of the wire command that they decode to (R90 to R95). -/
theorem encode_of_decodeWire {bytes : List Byte} {i : Instr} (h : decodeWire bytes = .ok i) :
    encode i = .wire bytes := by
  unfold decodeWire at h
  split at h
  next hi lo =>
    rw [encode_of_mem_wireTable _ (mem_wireTable_of_decodeOpcode h), wireBytes_append]
  next => cases h

/-- Each instruction's words evaluate to it. -/
theorem decode_encode (i : Instr) : decode (encode i) = .ok i := by
  cases i <;> rfl

/-- Settles O4: the decoder undoes the encoder for each instruction, and what decodes is in the table of its
format. -/
theorem decodeEncodeAgree : Obligations.DecodeEncodeAgree := by
  refine ⟨decode_encode, fun w i h => ?_⟩
  cases w with
  | host f => exact used_eq_encode_of_decodeHost h
  | wire bytes => exact (encode_of_decodeWire h).symm

/-- R83: the codes between and beyond the rows of R81 are reserved. -/
theorem decodeHost_reserved {f : HostFields}
    (h : (0x02 ≤ f.hostop.toNat ∧ f.hostop.toNat ≤ 0x0F) ∨ 0x19 ≤ f.hostop.toNat) :
    decodeHost f = .error (.reservedHostCode f.hostop) := by
  unfold decodeHost
  split
  case h_12 => rfl
  all_goals omega

/-- Settles O3: each row of R81 is an arm of the decoder, and no row has a code of R83. -/
theorem hostCodesSelectOperations : Obligations.HostCodesSelectOperations := fun _ _ _ _ =>
  ⟨rfl, rfl, rfl, rfl, rfl, rfl, rfl, rfl, rfl, rfl, rfl, fun _ h => decodeHost_reserved h⟩

/-- Settles O5: the decoder evaluates each word to its row, or to none. -/
theorem tableWordsDecode : Obligations.TableWordsDecode :=
  ⟨rfl, rfl, rfl, rfl, rfl, rfl, rfl, rfl⟩

/-! The request on a port (R82, R83, R99). -/

theorem runUnit_of_request {u : UnitId} {s : State} {r : Request} (h : s.presented u = some r) :
    runUnit u s = runRequest u r s := by
  cases u <;> simp [runUnit, runRf, runEs, h]

/-- A step of the unit that moves, with a request on its port, deals with the request. -/
theorem step_of_request {s : State} {u : UnitId} {r : Request} (hr : s.env.resetPin = false)
    (hm : s.mover = some u) (hp : s.presented u = some r) :
    step s = runRequest u r s.spendTurn := by
  rw [step_of_mover hr hm]
  exact runUnit_of_request (by simpa using hp)

theorem runRequest_of_own {u : UnitId} {r : Request} {i : Instr} (hd : decodeHost r.fields = .ok i)
    (hi : i.unit = u) (s : State) : runRequest u r s = exec i s := by
  simp [runRequest, hd, hi]

/-- Withdrawing a request is all that dealing with it does where it is not accepted (R224). -/
theorem withdraw_eq_requestGone (s : State) (u : UnitId) : s.withdraw u = requestGone s u := by
  cases u <;> rfl

/-- A request that is no operation of the unit is taken away (R82, R83). -/
theorem runRequest_of_not_own {u : UnitId} {r : Request}
    (h : ∀ i, decodeHost r.fields = .ok i → i.unit ≠ u) (s : State) :
    runRequest u r s = .next (requestGone s u) := by
  rw [← withdraw_eq_requestGone]
  cases hd : decodeHost r.fields with
  | error e => simp [runRequest, hd]
  | ok i => simp [runRequest, hd, h i hd]

/-- Settles O6: the step is the moving unit's, which executes the operation on its port. -/
theorem stepRunsTheRequest : Obligations.StepRunsTheRequest := by
  intro s u r i hr hm hp hd hi
  rw [step_of_request hr hm hp, runRequest_of_own hd hi]

/-- Settles O12: the step is the moving unit's, which takes the request away. -/
theorem reservedCodeAcceptsNothing : Obligations.ReservedCodeAcceptsNothing := by
  intro s u r hr hm hp h
  rw [step_of_request hr hm hp, runRequest_of_not_own h]

/-! Requests that are not accepted: the unit is busy, or an operand is illegal. -/

theorem rfRequest_of_busy {s : State} (h : s.rfReady = false) (i : Instr) (op : RfOp) :
    s.rfRequest i op = requestGone s .rf := by
  simp [State.rfRequest, h, withdraw_eq_requestGone]

theorem esRequest_of_refused {s : State} {legal : Bool} (h : (s.esReady && legal) = false) (i : Instr)
    (op : EsOp) (opc : Half) (len : Byte) :
    s.esRequest legal i op opc len = requestGone s .es := by
  simp [State.esRequest, h, withdraw_eq_requestGone]

theorem esRequest_of_busy {s : State} (h : s.esReady = false) (legal : Bool) (i : Instr) (op : EsOp)
    (opc : Half) (len : Byte) : s.esRequest legal i op opc len = requestGone s .es :=
  esRequest_of_refused (by simp [h]) i op opc len

theorem execIsPresent_of_busy {s : State} (h : s.esReady = false) :
    execIsPresent s = .next (requestGone s .es) := by
  simp [execIsPresent, h, withdraw_eq_requestGone]

/-- `SET_CALIBRATION` is accepted by an idle ES with well-formed operands only (R82, R99). -/
theorem execSetCalibration_of_refused {s : State} {qa qb : Q}
    (h : (s.esReady && (Instr.setCalibration qa qb).wellFormed s.cfg) = false) :
    execSetCalibration qa qb s = .next (requestGone s .es) := by
  rw [setCalibration_wellFormed] at h
  simp [execSetCalibration, h, withdraw_eq_requestGone]

theorem execSetCalibration_of_busy {s : State} (h : s.esReady = false) (qa qb : Q) :
    execSetCalibration qa qb s = .next (requestGone s .es) :=
  execSetCalibration_of_refused (by simp [h])

theorem execSetCalibration_of_accepted {s : State} {qa qb : Q} (hs : s.es.fsm = .idle)
    (h : (Instr.setCalibration qa qb).wellFormed s.cfg = true) :
    execSetCalibration qa qb s = .next ((s.withdraw .es).esCalibrate qa qb) := by
  rw [setCalibration_wellFormed] at h
  simp [execSetCalibration, State.esReady, hs, h]

/-- Settles O10: each host operation asks its unit's ready signal first. -/
theorem busyUnitAcceptsNothing : Obligations.BusyUnitAcceptsNothing := by
  intro s i hi hb
  cases i with
  | measureCm => exact congrArg _ (rfRequest_of_busy hb _ _)
  | measureIn => exact congrArg _ (rfRequest_of_busy hb _ _)
  | isPresent => exact execIsPresent_of_busy hb
  | setCalibration qa qb => exact execSetCalibration_of_busy hb qa qb
  | sendCommand opa opb => exact congrArg _ (esRequest_of_busy hb _ _ _ _ _)
  | measure => exact congrArg _ (esRequest_of_busy hb _ _ _ _ _)
  | readStatus => exact congrArg _ (esRequest_of_busy hb _ _ _ _ _)
  | softReset => exact congrArg _ (esRequest_of_busy hb _ _ _ _ _)
  | clearStatus => exact congrArg _ (esRequest_of_busy hb _ _ _ _ _)
  | heaterOn => exact congrArg _ (esRequest_of_busy hb _ _ _ _ _)
  | heaterOff => exact congrArg _ (esRequest_of_busy hb _ _ _ _ _)
  | _ => cases hi

theorem lengthLegal_eq_false {p : Params} {opb : Byte}
    (h : opb.toNat % 3 ≠ 0 ∨ p.respMax < opb.toNat) : lengthLegal p opb = false := by
  simpa [lengthLegal, imp_iff_not_or] using h

/-- Settles O11: an illegal response length is refused, busy or not. -/
theorem illegalLengthAcceptsNothing : Obligations.IllegalLengthAcceptsNothing := by
  intro s opa opb h
  exact congrArg _ (esRequest_of_refused (by simp [lengthLegal_eq_false h]) _ _ _ _)

/-- Settles O60: a rational outside the format makes `SET_CALIBRATION` ill-formed. -/
theorem rationalOutsideFormatAcceptsNothing : Obligations.RationalOutsideFormatAcceptsNothing := by
  intro s qa qb h
  have hwf : (Instr.setCalibration qa qb).wellFormed s.cfg = false := by
    simpa [Instr.wellFormed, imp_iff_not_or] using h
  exact execSetCalibration_of_refused (by simp [hwf])

/-- A result recorded last is the one the host reads. -/
theorem lastResult_of_hist {s : State} {u : UnitId} {r : Result} {h : List Event}
    (hh : s.hist = h ++ [.complete u r]) : s.lastResult u = some r := by
  simp [State.lastResult, hh, Event.resultFor]

/-- Settles O42: the exact format holds every rational, so the calibration is accepted. -/
theorem everyRationalCalibrates : Obligations.EveryRationalCalibrates := by
  intro s qa qb hs hf
  have hwf : (Instr.setCalibration qa qb).wellFormed s.cfg = true := by
    simp [Instr.wellFormed, NumOut.holds, hf]
  refine ⟨hwf, _, execSetCalibration_of_accepted hs hwf, ?_, ?_, ?_⟩
  · simp [State.esCalibrate, hs]
  · simp [State.esCalibrate]
  · exact lastResult_of_hist (State.complete_hist _ _ _)

/-! The sending step, and the wire commands (R85, R142, R143). -/

/-- The sending step, its write answered `ok`, a response expected (R142). -/
theorem esSend_awaits {s : State} (hw : s.writeDraw = true) (hl : s.es.len ≠ 0) :
    s.esSend =
      { s with
        es := { s.es with fsm := .waitSettle }
        hist := s.hist ++ [.busWrite Config.busAddr (wireBytes s.es.opc) true]
        env := { s.env with writes := s.env.writes.spend } } := by
  unfold State.esSend
  rw [if_pos hw, if_neg hl]
  rfl

/-- The sending step, its write answered `ok`, no response (R142, R148). -/
theorem esSend_ends {s : State} (hw : s.writeDraw = true) (hl : s.es.len = 0) :
    s.esSend =
      { s with
        es := { s.es with fsm := .idle }
        hist :=
          s.hist ++
            [.busWrite Config.busAddr (wireBytes s.es.opc) true,
              .complete .es (okResult s.cfg s.es)]
        env := { s.env with writes := s.env.writes.spend } } := by
  unfold State.esSend
  rw [if_pos hw, if_pos hl]
  simp [State.finish, State.complete, State.record, State.setEs, State.spendWrite, State.setEnv]

theorem errorPayload_eq_noData (op : EsOp) : errorPayload op = noData op := by
  cases op <;> rfl

/-- The sending step, its write answered `fail` (R143, R213). -/
theorem esSend_fails {s : State} (hw : s.writeDraw = false) :
    s.esSend =
      { s with
        es := { s.es with fsm := .idle, lastErr := .bus }
        hist :=
          s.hist ++
            [.busWrite Config.busAddr (wireBytes s.es.opc) false,
              .complete .es ⟨.busError, noData s.es.op⟩]
        env := { s.env with writes := s.env.writes.spend } } := by
  unfold State.esSend
  rw [if_neg (by simp [hw])]
  simp [State.finish, State.raise, State.complete, State.record, State.setEs, State.spendWrite,
    State.setEnv, LastErr.raised, errorPayload_eq_noData]

/-- An operation that asks for no response delivers no bytes (R84, R140, R181 to R184). -/
theorem okResult_of_no_response {r : EsRegs} (hl : r.len = 0) (hm : r.op ≠ .measure)
    (hs : r.op ≠ .readStatus) (p : Params) :
    okResult p r = ⟨.ok, if r.op = .sendCommand then .bytes [] else .nothing⟩ := by
  unfold okResult
  cases h : r.op with
  | sendCommand => simp [hl]
  | measure => exact absurd h hm
  | readStatus => exact absurd h hs
  | _ => rfl

/-- The opcode in flight, executed as its wire command, is ES's sending step (log entry 17). -/
theorem exec_wire_of_sending {row : Instr × Half} (hrow : row ∈ wireTable) {s : State}
    (hs : s.es.fsm = .sending) (ho : s.es.opc = row.2) : exec row.1 s = .next s.esSend := by
  rw [exec_of_mem_wireTable hrow, ← ho, sendWire_of_sending hs]

/-- Settles O27: the frame is that of `esSend_awaits`. -/
theorem wireCommandAwaitsResponse : Obligations.WireCommandAwaitsResponse := by
  intro row hrow s hs ho hw hl
  rw [exec_wire_of_sending hrow hs ho, esSend_awaits hw hl, ho]
  rfl

/-- Settles O28: the end is that of `esSend_ends`, and an operation without a response delivers no bytes. -/
theorem wireCommandWithoutResponse : Obligations.WireCommandWithoutResponse := by
  intro row hrow s hs ho hw hl hm hr
  rw [exec_wire_of_sending hrow hs ho, esSend_ends hw hl, okResult_of_no_response hl hm hr, ho]
  rfl

/-- Settles O29: the end is that of `esSend_fails`. -/
theorem wireCommandWriteFails : Obligations.WireCommandWriteFails := by
  intro row hrow s hs ho hw
  rw [exec_wire_of_sending hrow hs ho, esSend_fails hw, ho]
  rfl

/-- Settles O7: the step is the next of the transaction (`stepAdvancesTheOperation`), which is the sending step,
and a wire command of the table is that step too. -/
theorem stepSendsTheOpcode : Obligations.StepSendsTheOpcode := by
  intro s hr hm hp hs
  have hstep : step s = .next s.spendTurn.esSend := by
    rw [(stepAdvancesTheOperation s hr).2 hm hp]
    simp [State.esStep, hs]
  refine ⟨hstep, fun i hd => ?_⟩
  rw [hstep]
  exact (exec_wire_of_sending (mem_wireTable_of_decodeOpcode hd) (by simpa using hs)
    (s.spendTurn_es ▸ rfl)).symm

end Sys2Proof.Machine
end

section
/-! Results of operations that end in error (`60_exceptions.md` R213): what the results that a step of either unit
delivers carry. -/

namespace Sys2Proof.Machine

open Sys2Proof.Claims

/-- The result carries data only if it is `OK`; for `MEASURE` the pair (none, none) is no data (R84). -/
def Result.DataOnlyIfOk (r : Result) : Prop :=
  r.status ≠ .ok → r.payload = .nothing ∨ r.payload = .pair none none

/-- If the event delivers a result, that carries data only if it is `OK`. -/
def Event.DataOnlyIfOk (e : Event) : Prop :=
  match e with
  | .complete _ r => r.DataOnlyIfOk
  | _ => True

theorem Result.dataOnlyIfOk_ok (payload : Payload) : Result.DataOnlyIfOk ⟨.ok, payload⟩ :=
  fun h => absurd rfl h

theorem Result.dataOnlyIfOk_nothing (status : Status) : Result.DataOnlyIfOk ⟨status, .nothing⟩ :=
  fun _ => .inl rfl

/-- A transaction's error carries no data (R213). -/
theorem resultOf_dataOnlyIfOk (p : Params) (r : EsRegs) (o : LastErr) :
    (resultOf p r o).DataOnlyIfOk := by
  unfold resultOf
  split
  · exact Result.dataOnlyIfOk_ok _
  · intro _
    cases h : r.op <;> simp [errorPayload]

/-- Nor does any other result of ES: those of `IS_PRESENT` and `SET_CALIBRATION` are `OK`. -/
theorem EsTrans.dataOnlyIfOk {p : Params} {r r' : EsRegs} {l : List Event}
    (ht : EsTrans p r r' l) : ∀ e ∈ l, e.DataOnlyIfOk := by
  cases ht with
  | sendEnds h hl => simpa [Event.DataOnlyIfOk] using resultOf_dataOnlyIfOk p r .none
  | sendFails h => simpa [Event.DataOnlyIfOk] using resultOf_dataOnlyIfOk p r .bus
  | readFails h hl => simpa [Event.DataOnlyIfOk] using resultOf_dataOnlyIfOk p _ .bus
  | validates h ho => simpa [Event.DataOnlyIfOk] using resultOf_dataOnlyIfOk p _ _
  | scan h a => simp [Event.DataOnlyIfOk, Result.dataOnlyIfOk_ok]
  | calibrate h qa qb => simp [Event.DataOnlyIfOk, Result.dataOnlyIfOk_ok]
  | _ => simp [Event.DataOnlyIfOk]

/-! Unit RF. -/

/-- `t` has the history of `s` and further events, whose results carry data only if they are `OK`. -/
def AddsDataOnlyIfOk (s t : State) : Prop :=
  ∃ l, t.hist = s.hist ++ l ∧ ∀ e ∈ l, e.DataOnlyIfOk

theorem addsDataOnlyIfOk_of_hist {s t : State} (h : t.hist = s.hist) : AddsDataOnlyIfOk s t :=
  ⟨[], by simp [h], by simp⟩

theorem addsDataOnlyIfOk_of_event {s t : State} {e : Event} (h : t.hist = s.hist ++ [e])
    (he : e.DataOnlyIfOk) : AddsDataOnlyIfOk s t :=
  ⟨[e], h, by simpa using he⟩

theorem AddsDataOnlyIfOk.trans {s t v : State} (h : AddsDataOnlyIfOk s t)
    (h' : AddsDataOnlyIfOk t v) : AddsDataOnlyIfOk s v := by
  obtain ⟨l, hl, hd⟩ := h
  obtain ⟨l', hl', hd'⟩ := h'
  exact ⟨l ++ l', by rw [hl', hl, List.append_assoc],
    fun e he => (List.mem_append.1 he).elim (hd e) (hd' e)⟩

theorem complete_rf_adds (s : State) {r : Result} (h : r.DataOnlyIfOk) :
    AddsDataOnlyIfOk s (s.complete .rf r) :=
  addsDataOnlyIfOk_of_event (s.complete_hist .rf r) h

/-- An accepted RF operation delivers nothing yet (R113). -/
theorem rfRequest_adds (s : State) (i : Instr) (op : RfOp) :
    AddsDataOnlyIfOk s (s.rfRequest i op) := by
  obtain ⟨-, e⟩ | ⟨-, e⟩ := rfRequest_cases s i op <;> rw [e]
  · exact ⟨[.accept .rf i, .trigHigh], by simp [State.rfAccept], by simp [Event.DataOnlyIfOk]⟩
  · exact addsDataOnlyIfOk_of_hist (s.withdraw_hist .rf)

/-- The finish delivers `OK` and a distance, or `NO_CAPTURE` and nothing (R117, R122). -/
theorem rfFinish_adds (s : State) : AddsDataOnlyIfOk s s.rfFinish := by
  unfold State.rfFinish
  split
  · exact complete_rf_adds s (Result.dataOnlyIfOk_ok _)
  · exact complete_rf_adds s (Result.dataOnlyIfOk_nothing _)

/-- A poll of the first loop records a sample, or ends with `TIMEOUT` and nothing (R115, R118). -/
theorem rfPollRise_adds (s : State) : AddsDataOnlyIfOk s s.rfPollRise := by
  unfold State.rfPollRise
  split
  · exact complete_rf_adds s (Result.dataOnlyIfOk_nothing _)
  · cases s.echoDraw <;> exact addsDataOnlyIfOk_of_event rfl trivial

/-- A poll of the second loop does the same, or records its last sample and finishes (R116 to R118). -/
theorem rfPollFall_adds (s : State) : AddsDataOnlyIfOk s s.rfPollFall := by
  unfold State.rfPollFall
  split
  · exact complete_rf_adds s (Result.dataOnlyIfOk_nothing _)
  · cases s.echoDraw with
    | true => exact addsDataOnlyIfOk_of_event rfl trivial
    | false =>
      have hsample : AddsDataOnlyIfOk s ((s.spendEcho).record (.echoSample false s.rf.cnt)) :=
        addsDataOnlyIfOk_of_event rfl trivial
      exact hsample.trans (rfFinish_adds _)

theorem rfStep_adds (s : State) : AddsDataOnlyIfOk s s.rfStep := by
  unfold State.rfStep
  cases s.rf.fsm with
  | idle => exact addsDataOnlyIfOk_of_hist rfl
  | trig => exact addsDataOnlyIfOk_of_event (e := .trigLow) rfl trivial
  | waitRise => exact rfPollRise_adds s
  | waitFall => exact rfPollFall_adds s

/-- A step of RF, its requests among them. -/
theorem runRf_adds {s t : State} (h : runRf s = .next t) : AddsDataOnlyIfOk s t := by
  cases hp : s.presented .rf with
  | none => rw [runRf_of_no_request hp] at h; cases h; exact rfStep_adds s
  | some r =>
    have hrun : runRf s = runRequest .rf r s := runUnit_of_request (u := .rf) hp
    rw [hrun] at h
    by_cases hown : ∃ i, decodeHost r.fields = .ok i ∧ i.unit = .rf
    · obtain ⟨i, hd, hi⟩ := hown
      rw [runRequest_of_own hd hi] at h
      cases i with
      | measureCm => cases h; exact rfRequest_adds s _ _
      | measureIn => cases h; exact rfRequest_adds s _ _
      | _ => cases hi
    · rw [runRequest_of_not_own fun i hd hi => hown ⟨i, hd, hi⟩] at h
      cases h
      exact addsDataOnlyIfOk_of_hist rfl

/-! The block. -/

/-- A step adds what the unit that moves adds; reset and waiting add nothing. -/
theorem step_adds {s t : State} (h : step s = .next t) : AddsDataOnlyIfOk s t := by
  have hturn : AddsDataOnlyIfOk s s.spendTurn := addsDataOnlyIfOk_of_hist s.spendTurn_hist
  obtain ⟨-, e⟩ | ⟨-, -, e⟩ | ⟨-, -, e⟩ | ⟨-, -, e⟩ := step_cases s <;> rw [e] at h
  · cases h; exact addsDataOnlyIfOk_of_hist rfl
  · exact hturn.trans (runRf_adds h)
  · obtain ⟨l, hl, ht⟩ := runEs_acts h
    exact hturn.trans ⟨l, hl, ht.dataOnlyIfOk⟩
  · cases h; exact addsDataOnlyIfOk_of_hist rfl

/-- Settles O59: of the events that a step adds, those that deliver a result that is not `OK` carry no data. -/
theorem errorsCarryNoData : Obligations.ErrorsCarryNoData := by
  intro s t u r h hr
  obtain ⟨l, hl, hd⟩ := step_adds h
  rw [newEvents_of_hist hl] at hr
  exact hd _ hr

end Sys2Proof.Machine
end

section
/-! Unit RF (`40_rangefinder.md`): what each of its steps makes of the whole state (R113 to R119), and what
follows of a whole operation: the counter never wraps (R121), every operation ends (R127), and a pulse is
measured exactly. -/

namespace Sys2Proof.Machine

open Sys2Proof.Claims

/-! The distance functions (R120, R126). -/

theorem distCm_eq (d : Nat) : distCm d = (d : Q) / 58 := by
  simp only [distCm, Config.cmDiv]
  ring

/-- Settles O25: dividing by 2 and by 29 is dividing by 58. -/
theorem distanceFunctions : Obligations.DistanceFunctions := by
  refine ⟨distCm_eq, fun _ => rfl, ?_⟩
  rw [distCm_eq, cmToIn, Config.inPerCm]
  norm_num

/-- The value an RF operation delivers (R117, R124, R125). -/
theorem distanceOf_eq (op : RfOp) (diff : Nat) :
    distanceOf op diff = if op = .cm then (diff : Q) / 58 else (diff : Q) / 58 * (3937 / 10000) := by
  cases op with
  | cm => exact distCm_eq diff
  | inch => exact congrArg cmToIn (distCm_eq diff)

theorem distanceOf_nonneg (op : RfOp) (diff : Nat) : 0 ≤ distanceOf op diff := by
  rw [distanceOf_eq]
  split <;> positivity

/-! The steps of an operation, one equation for each way a step goes. -/

/-- `s` after a poll step that samples `level` and goes on: the registers are `r` but for the counter, which
advances by a draw (R115, R116). -/
def State.sampled (s : State) (level : Bool) (r : RfRegs) : State :=
  (((s.setRf { r with cnt := s.cntPlus s.advDraw }).spendEcho).spendAdv).record
    (.echoSample level s.rf.cnt)

/-- What the finish delivers (R117, R122). -/
def RfRegs.finishResult (f : NumOut) (r : RfRegs) : Result :=
  if r.startV && r.endV then ⟨.ok, .distance (present f (distanceOf r.op (r.end_ - r.start)))⟩
  else ⟨.noCapture, .nothing⟩

theorem RfRegs.finishResult_of_captured {r : RfRegs} (hs : r.startV = true) (he : r.endV = true)
    (f : NumOut) :
    r.finishResult f = ⟨.ok, .distance (present f (distanceOf r.op (r.end_ - r.start)))⟩ := by
  simp [RfRegs.finishResult, hs, he]

theorem RfRegs.finishResult_of_missing {r : RfRegs} (h : r.startV = false ∨ r.endV = false)
    (f : NumOut) : r.finishResult f = ⟨.noCapture, .nothing⟩ := by
  rcases h with h | h <;> simp [RfRegs.finishResult, h]

theorem rfFinish_eq_complete (s : State) :
    s.rfFinish = s.complete .rf (s.rf.finishResult s.cfg.numOut) := by
  unfold State.rfFinish RfRegs.finishResult
  split <;> rfl

section

variable {s : State}

/-- R113, written out. -/
theorem rfRequest_of_idle (h : s.rf.fsm = .idle) (i : Instr) (op : RfOp) :
    s.rfRequest i op = rfAccepted s i op := by
  obtain ⟨-, e⟩ | ⟨hbusy, -⟩ := rfRequest_cases s i op
  · rw [e]
    simp [State.rfAccept, rfAccepted, State.setRf, State.record]
  · exact absurd h hbusy

theorem rfStep_of_trig (h : s.rf.fsm = .trig) : s.rfStep = s.rfTrigger := by
  simp [State.rfStep, h]

/-- R118: no sample is taken. -/
theorem rfStep_of_above (h : s.rf.fsm = .waitRise ∨ s.rf.fsm = .waitFall)
    (hc : s.cfg.tMax < s.rf.cnt) : s.rfStep = s.complete .rf ⟨.timeout, .nothing⟩ := by
  rcases h with h | h
  · simp [State.rfStep, h, State.rfPollRise, hc]
  · simp [State.rfStep, h, State.rfPollFall, hc]

/-- R115, a low sample: captured in `START`. -/
theorem rfStep_of_low (h : s.rf.fsm = .waitRise) (hc : s.rf.cnt ≤ s.cfg.tMax)
    (he : s.echoDraw = false) :
    s.rfStep = s.sampled false { s.rf with start := s.rf.cnt, startV := true } := by
  simp [State.rfStep, h, State.rfPollRise, hc.not_gt, he, State.sampled]

/-- R115, a high sample: the second loop begins. -/
theorem rfStep_of_rise (h : s.rf.fsm = .waitRise) (hc : s.rf.cnt ≤ s.cfg.tMax)
    (he : s.echoDraw = true) : s.rfStep = s.sampled true { s.rf with fsm := .waitFall } := by
  simp [State.rfStep, h, State.rfPollRise, hc.not_gt, he, State.sampled]

/-- R116, a high sample: captured in `END`. -/
theorem rfStep_of_high (h : s.rf.fsm = .waitFall) (hc : s.rf.cnt ≤ s.cfg.tMax)
    (he : s.echoDraw = true) :
    s.rfStep = s.sampled true { s.rf with end_ := s.rf.cnt, endV := true } := by
  simp [State.rfStep, h, State.rfPollFall, hc.not_gt, he, State.sampled]

/-- The low sample of the second loop ends the operation; `CNT` is free after, the captures stand. -/
theorem rfStep_of_fall (h : s.rf.fsm = .waitFall) (hc : s.rf.cnt ≤ s.cfg.tMax)
    (he : s.echoDraw = false) :
    ∃ c, c < s.cfg.period ∧
      s.rfStep =
        { s with
          rf := { s.rf with fsm := .idle, cntRun := false, cnt := c }
          hist := s.hist ++
            [.echoSample false s.rf.cnt, .complete .rf (s.rf.finishResult s.cfg.numOut)]
          env := { s.env with echo := s.env.echo.spend, rfFree := s.env.rfFree + 1 } } := by
  have hstep : s.rfStep = ((s.spendEcho).record (.echoSample false s.rf.cnt)).rfFinish := by
    simp [State.rfStep, h, State.rfPollFall, hc.not_gt, he]
  have hhist (e e' : Event) : s.hist ++ [e, e'] = s.hist ++ [e] ++ [e'] := by simp
  refine ⟨s.stoppedCnt, s.stoppedCnt_lt, ?_⟩
  rw [hstep, rfFinish_eq_complete, hhist]
  rfl

end

/-- Settles O13: on an idle RF both requests are accepted. -/
theorem rangeOperationsAccepted : Obligations.RangeOperationsAccepted := fun _ h =>
  ⟨congrArg _ (rfRequest_of_idle h _ _), congrArg _ (rfRequest_of_idle h _ _)⟩

/-- Settles O14: the step is `rfTrigger`, and a draw is bounded. -/
theorem triggerStep : Obligations.TriggerStep := by
  intro s h
  refine ⟨s.advDraw_le, ?_⟩
  rw [rfStep_of_trig h, Nat.add_assoc]
  rfl

/-- Settles O19: the step is the completion with `TIMEOUT`. -/
theorem pollAboveBoundTimesOut : Obligations.PollAboveBoundTimesOut := fun s h hc =>
  ⟨s.stoppedCnt, s.stoppedCnt_lt, rfStep_of_above h hc⟩

/-- Settles O15: above `T_MAX` as in O19, else by the level of the sample. -/
theorem firstLoopPoll : Obligations.FirstLoopPoll := fun s h =>
  ⟨pollAboveBoundTimesOut s (.inl h), rfStep_of_low h, rfStep_of_rise h⟩

/-- Settles O16: the step is the one that samples high and captures `END`. -/
theorem secondLoopHighPoll : Obligations.SecondLoopHighPoll := fun _ => rfStep_of_high

/-- Settles O17: the finish with both captures presents `distanceOf`, which is not negative. -/
theorem finishDeliversDistance : Obligations.FinishDeliversDistance := by
  intro s h hc he hs hend _
  obtain ⟨c, hlt, hstep⟩ := rfStep_of_fall h hc he
  rw [RfRegs.finishResult_of_captured hs hend] at hstep
  exact ⟨c, _, hlt, present_nonneg _ (distanceOf_nonneg _ _), present_holds _ _,
    congrArg _ (distanceOf_eq _ _), hstep⟩

/-- Settles O18: the finish with a capture missing. -/
theorem finishWithoutCapture : Obligations.FinishWithoutCapture := by
  intro s h hc he hmissing
  rw [← RfRegs.finishResult_of_missing hmissing s.cfg.numOut]
  exact rfStep_of_fall h hc he

/-! The counter while an operation goes on (R121). -/

/-- A step of an operation that does not end it: the trigger step, or a poll step within `T_MAX`; it uses up
one draw of ticks, by which `CNT` advances. -/
theorem rfStep_goes_on {s : State} (h : s.rf.fsm ≠ .idle) (h' : s.rfStep.rf.fsm ≠ .idle) :
    (s.rf.fsm = .trig ∨ s.rf.cnt ≤ s.cfg.tMax) ∧
      s.rfStep.rf.cnt = s.cntPlus ((if s.rf.fsm = .trig then 10 else 0) + s.advDraw) ∧
      s.rfStep.env.ticks = s.env.ticks.spend := by
  have hsampled : ∀ {level r}, s.rf.fsm ≠ .trig → s.rfStep = s.sampled level r →
      s.rfStep.rf.cnt = s.cntPlus ((if s.rf.fsm = .trig then 10 else 0) + s.advDraw) ∧
        s.rfStep.env.ticks = s.env.ticks.spend := by
    intro level r hne e
    rw [e, if_neg hne, Nat.zero_add]
    exact ⟨rfl, rfl⟩
  obtain ⟨hi, -⟩ | ⟨ht, -⟩ | ⟨hp, hc, -⟩ | ⟨hw, hc, -⟩ | ⟨hw, hc, -⟩ := rfStep_cases s
  · exact absurd hi h
  · rw [rfStep_of_trig ht, if_pos ht]
    exact ⟨.inl ht, rfl, rfl⟩
  · rw [rfStep_of_above hp hc] at h'
    exact absurd rfl h'
  · refine ⟨.inr hc, ?_⟩
    cases he : s.echoDraw with
    | false => exact hsampled (by simp [hw]) (rfStep_of_low hw hc he)
    | true => exact hsampled (by simp [hw]) (rfStep_of_rise hw hc he)
  · refine ⟨.inr hc, ?_⟩
    cases he : s.echoDraw with
    | false =>
      obtain ⟨c, -, e⟩ := rfStep_of_fall hw hc he
      rw [e] at h'
      exact absurd rfl h'
    | true => exact hsampled (by simp [hw]) (rfStep_of_high hw hc he)

/-- In the trigger phase the counter of a well-kept RF stands at zero. -/
theorem RfRegs.Kept.cnt_of_trig {p : Params} {r : RfRegs} (hk : r.Kept p) (h : r.fsm = .trig) :
    r.cnt = 0 := by
  obtain ⟨-, -, hcap⟩ := hk
  rw [RfRegs.Captures, h] at hcap
  exact hcap.1

/-- Settles O20: the advance starts from 0 in the trigger step and within `T_MAX` in a poll step, so it
does not reach `PERIOD` (R6). -/
theorem counterNeverWraps : Obligations.CounterNeverWraps := by
  intro s hk h h'
  obtain ⟨hphase, hcnt, -⟩ := rfStep_goes_on h h'
  have hlt : s.rf.cnt + (if s.rf.fsm = .trig then 10 else 0) + s.advDraw < s.cfg.period := by
    by_cases ht : s.rf.fsm = .trig
    · rw [if_pos ht, hk.cnt_of_trig ht, Nat.zero_add]
      exact advance_lt_period s.cfg.trig_le_tMax s.advDraw_le
    · rw [if_neg ht, Nat.add_zero]
      exact advance_lt_period (hphase.resolve_left ht) s.advDraw_le
  rw [hcnt, State.cntPlus, ← Nat.add_assoc, Nat.mod_eq_of_lt hlt]
  exact ⟨rfl, hlt⟩

/-! The tick source (R112). -/

/-- A draw is above 0 once its gap of zero draws is over. -/
theorem freeAdv_pos {n : Nat} (h : Config.freeGap (Config.tickPos n).1 ≤ (Config.tickPos n).2) :
    0 < Config.freeAdv n := by
  rw [Config.freeAdv, if_neg (Nat.not_lt.2 h)]
  exact Nat.succ_pos _

/-- Each zero draw brings the next positive one nearer: `d` bounds how many are left. -/
theorem exists_freeAdv_pos (d : Nat) : ∀ n,
    Config.freeGap (Config.tickPos n).1 ≤ (Config.tickPos n).2 + d →
      ∃ m, n ≤ m ∧ 0 < Config.freeAdv m := by
  induction d with
  | zero => exact fun n h => ⟨n, Nat.le_refl n, freeAdv_pos h⟩
  | succ d ih =>
    intro n h
    by_cases hz : (Config.tickPos n).2 < Config.freeGap (Config.tickPos n).1
    · obtain ⟨m, hm, hpos⟩ := ih (n + 1) (by simp only [Config.tickPos, if_pos hz]; omega)
      exact ⟨m, Nat.le_of_succ_le hm, hpos⟩
    · exact ⟨n, Nat.le_refl n, freeAdv_pos (Nat.not_lt.1 hz)⟩

/-- Settles O21: the gap that draw `n` stands in bounds the zero draws left before one above 0. -/
theorem tickDrawsAreFair : Obligations.TickDrawsAreFair := fun n =>
  exists_freeAdv_pos (Config.freeGap (Config.tickPos n).1) n (Nat.le_add_left _ _)

/-- The draw of ticks that comes after `i` others. -/
def Feed.nthTick (f : Feed Nat) (i : Nat) : Nat := f.script.getD i (Config.freeAdv (f.used + i))

theorem Feed.nthTick_zero (f : Feed Nat) : f.nthTick 0 = f.draw Config.freeAdv := by
  obtain ⟨_ | _, _⟩ := f <;> rfl

theorem Feed.nthTick_spend (f : Feed Nat) (i : Nat) : f.spend.nthTick i = f.nthTick (i + 1) := by
  obtain ⟨_ | _, used⟩ := f <;>
    simp [Feed.nthTick, Feed.spend, Nat.add_assoc, Nat.add_comm 1 i]

/-- Infinitely many draws are above 0, since the script is finite and the free draws are fair. -/
theorem Feed.infinite_nthTick_pos (f : Feed Nat) : {i | 0 < f.nthTick i}.Infinite := by
  refine Nat.frequently_atTop_iff_infinite.1 (Filter.frequently_atTop.2 fun n => ?_)
  obtain ⟨m, hm, hpos⟩ := tickDrawsAreFair (f.used + max n f.script.length)
  obtain ⟨i, rfl⟩ := Nat.exists_eq_add_of_le (Nat.le_of_add_right_le hm)
  have hi : max n f.script.length ≤ i := Nat.le_of_add_le_add_left hm
  refine ⟨i, le_of_max_le_left hi, ?_⟩
  rwa [Feed.nthTick, List.getD_eq_default _ _ (le_of_max_le_right hi)]

/-- A draw above 0 advances the counter, if `ADV_MAX` lets it. -/
theorem State.advDraw_pos {s : State} (hadv : 1 ≤ s.cfg.advMax) (h : 0 < s.env.ticks.nthTick 0) :
    1 ≤ s.advDraw := by
  rw [Feed.nthTick_zero] at h
  exact Nat.le_min.2 ⟨h, hadv⟩

/-! Every operation ends (R127). -/

theorem rfStep_cfg (s : State) : s.rfStep.cfg = s.cfg := by
  obtain ⟨b, l, h, -⟩ := rfStep_local s s ⟨rfl, rfl, rfl, rfl, rfl, rfl⟩
  rw [h]
  rfl

/-- Above `T_MAX` the operation has ended after the step: the trigger phase is not there (R113). -/
theorem rfStep_idle_of_above {s : State} (hk : s.rf.Kept s.cfg) (hc : s.cfg.tMax < s.rf.cnt) :
    s.rfStep.rf.fsm = .idle := by
  by_contra h'
  have h : s.rf.fsm ≠ .idle := fun h => h' (by rwa [State.rfStep, h])
  obtain ⟨ht | hle, -⟩ := rfStep_goes_on h h'
  · rw [hk.cnt_of_trig ht] at hc
    exact Nat.not_lt_zero _ hc
  · exact Nat.not_lt.2 hle hc

/-- RF is idle after `n + 1` steps at the latest, if `n` draws hold as many above 0 as the counter needs to
pass `T_MAX`. -/
theorem ends_of_count {n : Nat} : ∀ {s : State}, s.rf.Kept s.cfg → 1 ≤ s.cfg.advMax →
    s.cfg.tMax < s.rf.cnt + Nat.count (fun i => 0 < s.env.ticks.nthTick i) n →
      ∃ k, k ≤ n + 1 ∧ (rfSteps k s).rf.fsm = .idle := by
  induction n with
  | zero => exact fun hk _ hn => ⟨1, Nat.le_refl _, rfStep_idle_of_above hk hn⟩
  | succ n ih =>
    intro s hk hadv hn
    by_cases h : s.rf.fsm = .idle
    · exact ⟨0, Nat.zero_le _, h⟩
    by_cases h' : s.rfStep.rf.fsm = .idle
    · exact ⟨1, by omega, h'⟩
    obtain ⟨-, -, hticks⟩ := rfStep_goes_on h h'
    obtain ⟨hcnt, -⟩ := counterNeverWraps s hk h h'
    have hdraw : (if 0 < s.env.ticks.nthTick 0 then 1 else 0) ≤ s.advDraw := by
      split
      · exact State.advDraw_pos hadv ‹_›
      · exact Nat.zero_le _
    rw [Nat.count_succ'] at hn
    obtain ⟨k, hle, hidle⟩ := ih (s := s.rfStep)
      (by rw [rfStep_cfg]; exact (rfStep_trans s).kept hk) (by rwa [rfStep_cfg])
      (by simp only [rfStep_cfg, hticks, Feed.nthTick_spend]; omega)
    exact ⟨k + 1, Nat.succ_le_succ hle, hidle⟩

/-- Settles O22: enough draws hold as many above 0 as needed. -/
theorem rangeOperationsEnd : Obligations.RangeOperationsEnd := by
  intro s hk hadv
  obtain ⟨n, hn⟩ := Nat.surjective_count_of_infinite_setOfPred s.env.ticks.infinite_nthTick_pos
    (s.cfg.tMax + 1)
  obtain ⟨k, -, hidle⟩ := ends_of_count hk hadv (n := n) (by omega)
  exact ⟨k, hidle⟩

/-- Settles O23: the next `T_MAX + 1` draws are all above 0. -/
theorem rangeOperationsEndInTime : Obligations.RangeOperationsEndInTime := by
  intro s hk hadv hlen hpos
  have hcount : Nat.count (fun i => 0 < s.env.ticks.nthTick i) (s.cfg.tMax + 1) =
      s.cfg.tMax + 1 := by
    rw [Nat.count_iff_forall]
    intro i hi
    rw [Feed.nthTick, List.getD_eq_getElem _ _ (by omega)]
    exact hpos _ (List.getElem_mem _)
  obtain ⟨k, hle, hidle⟩ := ends_of_count hk hadv (n := s.cfg.tMax + 1) (by omega)
  exact ⟨k, by omega, hidle⟩

/-! A pulse of the reference configuration of ticks (R112). -/

theorem rfSteps_add (m n : Nat) (s : State) : rfSteps (m + n) s = rfSteps n (rfSteps m s) := by
  induction m generalizing s with
  | zero => rw [Nat.zero_add, rfSteps]
  | succ m ih => rw [Nat.succ_add, rfSteps, rfSteps, ih]

/-- `s` has the parameters `p`, RF's registers `r`, and in store the samples `echo` and draws `ticks`. -/
structure State.Measuring (s : State) (p : Params) (r : RfRegs) (echo : List Bool)
    (ticks : List Nat) : Prop where
  cfg : s.cfg = p
  rf : s.rf = r
  echo : s.env.echo.script = echo
  ticks : s.env.ticks.script = ticks

section

variable {s : State} {p : Params} {r : RfRegs} {level : Bool} {echo : List Bool} {k : Nat}
  {ticks : List Nat}

theorem Feed.draw_of_script {α : Type} {f : Feed α} {a : α} {l : List α} (h : f.script = a :: l)
    (free : Nat → α) : f.draw free = a := by
  rw [Feed.draw, h]

theorem Feed.spend_script {α : Type} {f : Feed α} {a : α} {l : List α} (h : f.script = a :: l) :
    f.spend.script = l := by
  rw [Feed.spend, h, List.tail_cons]

theorem State.Measuring.echoDraw (m : s.Measuring p r (level :: echo) ticks) :
    s.echoDraw = level := Feed.draw_of_script m.echo _

theorem State.Measuring.advDraw (m : s.Measuring p r echo (k :: ticks)) (hk : k ≤ p.advMax) :
    s.advDraw = k := by
  rw [State.advDraw, Feed.draw_of_script m.ticks, m.cfg, Nat.min_eq_left hk]

/-- The trigger step on an operation just accepted, `TRIG_TICKS` long (R114). -/
theorem State.Measuring.trigger (m : s.Measuring p r echo (0 :: ticks)) (h : r.fsm = .trig)
    (hc : r.cnt = 0) :
    s.rfStep.Measuring p { r with cnt := 10, trig := false, fsm := .waitRise } echo ticks := by
  have hcnt : s.cntPlus (Config.trigTicks + 0) = 10 := by
    rw [State.cntPlus, m.rf, m.cfg, hc, Nat.zero_add]
    exact advance_mod_period p.trig_le_tMax (Nat.zero_le _)
  rw [rfStep_of_trig (by rw [m.rf, h]), State.rfTrigger, m.advDraw (Nat.zero_le _), hcnt, m.rf]
  exact ⟨m.cfg, rfl, m.echo, Feed.spend_script m.ticks⟩

/-- A poll step that goes on. -/
theorem State.Measuring.sampled (m : s.Measuring p r (level :: echo) (k :: ticks))
    (hc : r.cnt ≤ p.tMax) (hk : k ≤ p.advMax) (r' : RfRegs) :
    (s.sampled level r').Measuring p { r' with cnt := r.cnt + k } echo ticks := by
  have hcnt : s.cntPlus k = r.cnt + k := by
    rw [State.cntPlus, m.rf, m.cfg, advance_mod_period hc hk]
  rw [State.sampled, m.advDraw hk, hcnt]
  exact ⟨m.cfg, rfl, Feed.spend_script m.echo, Feed.spend_script m.ticks⟩

/-- The registers after a poll step that captures counter value `c` and lasts one tick: a low sample is
captured in `START`, a high one in `END` (R115, R116). -/
def RfRegs.captured (r : RfRegs) (level : Bool) (c : Nat) : RfRegs :=
  match level with
  | false => { r with start := c, startV := true, cnt := c + 1 }
  | true => { r with end_ := c, endV := true, cnt := c + 1 }

/-- The loop in which a sample of that level is captured (R115, R116). -/
def captureLoop (level : Bool) : RfFsm :=
  match level with
  | false => .waitRise
  | true => .waitFall

theorem RfRegs.captured_fsm (r : RfRegs) (level : Bool) (c : Nat) :
    (r.captured level c).fsm = r.fsm := by cases level <;> rfl

theorem RfRegs.captured_cnt (r : RfRegs) (level : Bool) (c : Nat) :
    (r.captured level c).cnt = c + 1 := by cases level <;> rfl

/-- The later capture stands (R115, R116). -/
theorem RfRegs.captured_captured (r : RfRegs) (level : Bool) (c d : Nat) :
    (r.captured level c).captured level d = r.captured level d := by cases level <;> rfl

theorem State.Measuring.poll (m : s.Measuring p r (level :: echo) (1 :: ticks))
    (h : r.fsm = captureLoop level) (hc : r.cnt ≤ p.tMax) (hadv : 1 ≤ p.advMax) :
    s.rfStep.Measuring p (r.captured level r.cnt) echo ticks := by
  have hc' : s.rf.cnt ≤ s.cfg.tMax := by rwa [m.rf, m.cfg]
  cases level with
  | false =>
    rw [rfStep_of_low (by rw [m.rf, h]; rfl) hc' m.echoDraw, m.rf]
    exact m.sampled hc hadv _
  | true =>
    rw [rfStep_of_high (by rw [m.rf, h]; rfl) hc' m.echoDraw, m.rf]
    exact m.sampled hc hadv _

theorem State.Measuring.rise (m : s.Measuring p r (true :: echo) (k :: ticks))
    (h : r.fsm = .waitRise) (hc : r.cnt ≤ p.tMax) (hk : k ≤ p.advMax) :
    s.rfStep.Measuring p { r with fsm := .waitFall, cnt := r.cnt + k } echo ticks := by
  rw [rfStep_of_rise (by rw [m.rf, h]) (by rwa [m.rf, m.cfg]) m.echoDraw, m.rf]
  exact m.sampled hc hk _

/-- `n + 1` polls that capture, one tick each: the last capture stands. -/
theorem State.Measuring.polls (hadv : 1 ≤ p.advMax) (n : Nat) : ∀ {s : State} {r : RfRegs},
    s.Measuring p r (List.replicate (n + 1) level ++ echo) (List.replicate (n + 1) 1 ++ ticks) →
    r.fsm = captureLoop level → r.cnt + n ≤ p.tMax →
      (rfSteps (n + 1) s).Measuring p (r.captured level (r.cnt + n)) echo ticks := by
  induction n with
  | zero => exact fun m h hc => m.poll h hc hadv
  | succ n ih =>
    intro s r m h hc
    have hcnt : (r.captured level r.cnt).cnt + n = r.cnt + (n + 1) := by
      rw [RfRegs.captured_cnt, Nat.add_assoc, Nat.add_comm 1]
    have hnext := ih (m.poll h (Nat.le_of_add_right_le hc) hadv)
      ((r.captured_fsm level r.cnt).trans h) (hcnt ▸ hc)
    rwa [RfRegs.captured_captured, hcnt] at hnext

/-- The low sample after a pulse delivers the distance (R117). -/
theorem State.Measuring.finish (m : s.Measuring p r (false :: echo) ticks) (h : r.fsm = .waitFall)
    (hc : r.cnt ≤ p.tMax) (hs : r.startV = true) (he : r.endV = true) :
    s.rfStep.rf.fsm = .idle ∧ s.rfStep.rf.start = r.start ∧ s.rfStep.rf.end_ = r.end_ ∧
      s.rfStep.lastResult .rf =
        some ⟨.ok, .distance (present p.numOut (distanceOf r.op (r.end_ - r.start)))⟩ := by
  obtain ⟨c, -, e⟩ := rfStep_of_fall (by rw [m.rf, h]) (by rwa [m.rf, m.cfg]) m.echoDraw
  rw [e, m.rf, m.cfg, RfRegs.finishResult_of_captured hs he]
  exact ⟨rfl, rfl, rfl, by simp [State.lastResult, Event.resultFor]⟩

/-- An operation just accepted, up to its last poll: the trigger step, `a + 1` low polls, the rise, and
`b + 1` more high polls. -/
theorem State.Measuring.pulse {a b : Nat}
    (m : s.Measuring p r (List.replicate (a + 1) false ++ (List.replicate (b + 2) true ++ echo))
      (0 :: (List.replicate (a + 1) 1 ++ (List.replicate (b + 2) 1 ++ ticks))))
    (h : r.fsm = .trig) (hc : r.cnt = 0) (hmax : 13 + a + b ≤ p.tMax) (hadv : 1 ≤ p.advMax) :
    (rfSteps (1 + ((a + 1) + (1 + (b + 1)))) s).Measuring p
      { r with
        fsm := .waitFall, trig := false, start := 10 + a, startV := true
        end_ := 12 + a + b, endV := true, cnt := 13 + a + b } echo ticks := by
  have htrigger := m.trigger h hc
  have hlow : (rfSteps (a + 1) s.rfStep).Measuring p
      { r with
        fsm := .waitRise, trig := false, start := 10 + a, startV := true, cnt := 10 + a + 1 } _ _ :=
    htrigger.polls hadv a rfl (by simp only; omega)
  have hrise : (rfSteps (a + 1) s.rfStep).rfStep.Measuring p
      { r with
        fsm := .waitFall, trig := false, start := 10 + a, startV := true, cnt := 10 + a + 2 } _ _ :=
    hlow.rise rfl (by simp only; omega) hadv
  have hhigh := hrise.polls hadv b rfl (by simp only; omega)
  rw [rfSteps_add, rfSteps_add, rfSteps_add, show 13 + a + b = 10 + a + 2 + b + 1 by omega,
    show 12 + a + b = 10 + a + 2 + b by omega]
  exact hhigh

/-- The whole operation after its acceptance: `START` is taken at the last low poll and `END` at the last
high one, `b + 2` ticks later. -/
theorem State.Measuring.pulse_measured {a b : Nat}
    (m : s.Measuring p r
      (List.replicate (a + 1) false ++ (List.replicate (b + 2) true ++ false :: echo))
      (0 :: (List.replicate (a + 1) 1 ++ (List.replicate (b + 2) 1 ++ ticks))))
    (h : r.fsm = .trig) (hc : r.cnt = 0) (hmax : 13 + a + b ≤ p.tMax) (hadv : 1 ≤ p.advMax) :
    (rfSteps (a + 1 + (b + 2) + 2) s).rf.fsm = .idle ∧
      (rfSteps (a + 1 + (b + 2) + 2) s).rf.start = 10 + a ∧
      (rfSteps (a + 1 + (b + 2) + 2) s).rf.end_ = 12 + a + b ∧
      (rfSteps (a + 1 + (b + 2) + 2) s).lastResult .rf =
        some ⟨.ok, .distance (present p.numOut (distanceOf r.op (b + 2)))⟩ := by
  have hfinish := (m.pulse h hc hmax hadv).finish rfl hmax rfl rfl
  have hdiff : 12 + a + b - (10 + a) = b + 2 := by omega
  rw [show a + 1 + (b + 2) + 2 = 1 + (a + 1 + (1 + (b + 1))) + 1 by omega, rfSteps_add, ← hdiff]
  exact hfinish

end

/-- Settles O24: the accepted operation measures the pulse, and its `RF_OP` gives the unit of length. -/
theorem pulseIsMeasuredExactly : Obligations.PulseIsMeasuredExactly := by
  intro s i a b moreEcho moreTicks hi hidle ha hb hmax hadv hecho hticks
  obtain ⟨a, rfl⟩ := Nat.exists_eq_add_of_le' ha
  obtain ⟨b, rfl⟩ := Nat.exists_eq_add_of_le' hb
  obtain ⟨op, hexec, hop⟩ : ∃ op, exec i s = .next (rfAccepted s i op) ∧
      (op = .cm ↔ i = .measureCm) := by
    obtain ⟨hcm, hin⟩ := rangeOperationsAccepted s hidle
    rcases hi with rfl | rfl
    · exact ⟨.cm, hcm, by simp⟩
    · exact ⟨.inch, hin, by simp⟩
  rw [List.replicate_add (a + 1), List.append_assoc] at hticks
  have haccepted : (rfAccepted s i op).Measuring s.cfg (rfAccepted s i op).rf _ _ :=
    ⟨rfl, rfl, hecho, hticks⟩
  obtain ⟨hend, hstart, hstop, hresult⟩ := haccepted.pulse_measured rfl rfl (by omega) hadv
  refine ⟨_, hexec, hend, by omega, by omega, ?_⟩
  rw [hresult, distanceOf_eq]
  simp [hop, rfAccepted]

end Sys2Proof.Machine
end

section
/-! Unit ES (`41_framer.md`): what each step of a transaction makes of the whole state (R141 to R148), and what a
whole transaction delivers (R139, R149, R150). -/

namespace Sys2Proof.Machine

open Sys2Proof.Claims

variable {s : State}

/-! Acceptance (R141). -/

theorem esRequest_of_accepted (h : s.es.fsm = .idle) {legal : Bool} (hl : legal = true) (i : Instr)
    (op : EsOp) (opc : Half) (len : Byte) :
    s.esRequest legal i op opc len = esAccepted s i op opc len := by
  simp only [State.esRequest, State.esReady, h, hl, beq_self_eq_true, Bool.and_self, if_true]
  rfl

/-- Settles O26: each of the seven operations is a request for a transaction, and an idle ES accepts it. -/
theorem transactionsAccepted : Obligations.TransactionsAccepted := by
  intro s h
  refine ⟨fun opa opb h3 hmax => ?_, ?_⟩
  · have hlegal : lengthLegal s.cfg opb = true := by simp [lengthLegal, h3, hmax]
    exact congrArg _ (esRequest_of_accepted h hlegal _ _ _ _)
  · have haccepts := esRequest_of_accepted h rfl
    exact ⟨congrArg _ (haccepts _ _ _ _), congrArg _ (haccepts _ _ _ _),
      congrArg _ (haccepts _ _ _ _), congrArg _ (haccepts _ _ _ _),
      congrArg _ (haccepts _ _ _ _), congrArg _ (haccepts _ _ _ _)⟩

/-! Which step is next (R149). -/

theorem esStep_of_idle (h : s.es.fsm = .idle) : s.esStep = s := by
  simp [State.esStep, h]

theorem esStep_of_sending (h : s.es.fsm = .sending) : s.esStep = s.esSend := by
  simp [State.esStep, h]

theorem esStep_of_waitSettle (h : s.es.fsm = .waitSettle) : s.esStep = s.esSettle := by
  simp [State.esStep, h]

theorem esStep_of_reading (h : s.es.fsm = .reading) : s.esStep = s.esRead := by
  simp [State.esStep, h]

theorem esStep_of_validating (h : s.es.fsm = .validating) : s.esStep = s.esValidate := by
  simp [State.esStep, h]

/-- Settles O30: a wire command asks for the sending step and its own opcode. -/
theorem wireCommandOnlyWhenSending : Obligations.WireCommandOnlyWhenSending := by
  intro row hrow s h
  rw [exec_of_mem_wireTable hrow, State.sendWire, if_neg (not_and_or.2 h)]

/-! The steps, one equation for each way a step goes. -/

/-- An operation of a well-kept ES that asks for no response is none of the two that interpret one
(R101). -/
theorem EsRegs.Kept.interprets_nothing {p : Params} {r : EsRegs} (hk : r.Kept p) (hf : r.fsm ≠ .idle)
    (hl : r.len = 0) : r.op ≠ .measure ∧ r.op ≠ .readStatus := by
  obtain ⟨-, -, -, hrow⟩ := hk
  constructor <;> intro hop <;> simpa [EsOp.row, hop, hl] using hrow hf

/-- Settles O31: the three ways of the sending step. -/
theorem sendingStep : Obligations.SendingStep := by
  intro s h
  rw [esStep_of_sending h]
  refine ⟨esSend_awaits, fun hw hl hk => ?_, esSend_fails⟩
  obtain ⟨hm, hs⟩ := hk.interprets_nothing (by simp [h]) hl
  rw [esSend_ends hw hl, okResult_of_no_response hl hm hs]
  rfl

/-- Settles O32: the settle step is that write of `ES_FSM`. -/
theorem settleStep : Obligations.SettleStep := fun _ => esStep_of_waitSettle

/-- The end of a transaction with outcome `o`, written out (R148). -/
theorem finish_eq (s : State) (o : LastErr) :
    s.finish o =
      { s with
        es := s.es.ended o
        hist := s.hist ++ [.complete .es (resultOf s.cfg s.es o)] } := by
  cases o <;> rfl

/-- The reading step, its read answered with bytes (R145). -/
theorem esRead_of_bytes {d : List Byte} (hd : s.readDraw s.es.len.toNat = some d) :
    s.esRead =
      { s with
        es := { s.es with resp := writeResp s.es.resp d, fsm := .validating }
        hist := s.hist ++ [.busRead Config.busAddr s.es.len.toNat (some d)]
        env := { s.env with reads := s.env.reads.spend } } := by
  simp only [State.esRead, hd]
  rfl

/-- The reading step, its read answered `fail` (R146). -/
theorem esRead_of_fail (hd : s.readDraw s.es.len.toNat = none) :
    s.esRead =
      { s with
        es := { s.es with fsm := .idle, lastErr := .bus, resp := s.lostResp }
        hist :=
          s.hist ++
            [.busRead Config.busAddr s.es.len.toNat none,
              .complete .es ⟨.busError, noData s.es.op⟩]
        env := { s.env with reads := s.env.reads.spend, esFree := s.env.esFree + 1 } } := by
  simp only [State.esRead, hd, finish_eq]
  simp [EsRegs.ended, resultOf, Status.ofOutcome, errorPayload_eq_noData]

/-- Settles O33: the answer has the bytes asked for, and the step is `esRead_of_bytes`. -/
theorem readStepFillsBuffer : Obligations.ReadStepFillsBuffer := fun s d h hd =>
  ⟨s.readDraw_length _ d hd, (esStep_of_reading h).trans (esRead_of_bytes hd)⟩

/-- Settles O34: the step is `esRead_of_fail`, and the lost buffer keeps its size. -/
theorem readStepFails : Obligations.ReadStepFails := fun s h hd =>
  ⟨s.lostResp, lostResp_length s, (esStep_of_reading h).trans (esRead_of_fail hd)⟩

/-- What a transaction with outcome `o` delivers, in the words of R84 and R148. -/
theorem resultOf_eq (p : Params) (r : EsRegs) (o : LastErr) :
    resultOf p r o =
      ⟨Status.ofOutcome o, if o = .none then (okResult p r).payload else noData r.op⟩ := by
  cases o <;> simp [resultOf, Status.ofOutcome, errorPayload_eq_noData, okResult]

/-- The validating step (R147, R148, R166). -/
theorem esValidate_eq (s : State) :
    s.esValidate =
      { s with
        es := { s.es with crc := s.lastCrc }.ended (validate s.es.resp s.es.len.toNat)
        hist :=
          s.hist ++ [.complete .es (resultOf s.cfg s.es (validate s.es.resp s.es.len.toNat))]
        env := { s.env with esFree := s.env.esFree + 1 } } := by
  rw [State.esValidate, finish_eq]
  rfl

/-- Settles O35: the step is `esValidate_eq`, and `CRC` is left with the checksum of a group of the response. -/
theorem validatingStep : Obligations.ValidatingStep := by
  intro s h hlen
  refine ⟨Config.freeGroup s.env.esFree % (s.es.len.toNat / 3), Nat.mod_lt _ (by omega), ?_⟩
  rw [esStep_of_validating h, esValidate_eq, resultOf_eq]
  rfl

/-! The response: what lies in the first `LEN` bytes decides the class and the payload (R87, R165). -/

theorem getD_take {l : List Byte} {n i : Nat} (h : i < n) : (l.take n).getD i 0 = l.getD i 0 := by
  simp [List.getD_eq_getElem?_getD, List.getElem?_take_of_lt h]

theorem groupOk_take {l : List Byte} {n k : Nat} (h : k < n / 3) :
    groupOk (l.take n) k = groupOk l k := by
  simp only [groupOk, groupCrc, respByte]
  rw [getD_take (by omega), getD_take (by omega), getD_take (by omega)]

theorem groupZero_take {l : List Byte} {n k : Nat} (h : k < n / 3) :
    groupZero (l.take n) k = groupZero l k := by
  simp only [groupZero, respByte]
  rw [getD_take (by omega), getD_take (by omega)]

/-- The validator reads no byte beyond the response (R165). -/
theorem validate_take (l : List Byte) (n : Nat) : validate (l.take n) n = validate l n := by
  have hzero : (∀ i < n, respByte (l.take n) i = 0#8) ↔ ∀ i < n, respByte l i = 0#8 :=
    forall₂_congr fun i hi => by rw [respByte, getD_take hi, respByte]
  have hbad : (∃ k < n / 3, groupOk (l.take n) k = false) ↔ ∃ k < n / 3, groupOk l k = false :=
    exists_congr fun k => and_congr_right fun hk => by rw [groupOk_take hk]
  have hzeros : (∀ k < n / 3, groupZero (l.take n) k = true) ↔ ∀ k < n / 3, groupZero l k = true :=
    forall₂_congr fun k hk => by rw [groupZero_take hk]
  simp [validate, hzero, hbad, hzeros]

/-- A field is the unsigned number of its two bytes, high byte first (R60, R87). -/
theorem field_toNat (l : List Byte) (k : Nat) :
    (field l k).toNat = bigEndian (l.getD (3 * k) 0) (l.getD (3 * k + 1) 0) := by
  unfold field bigEndian
  generalize l.getD (3 * k) 0 = hi
  generalize l.getD (3 * k + 1) 0 = lo
  have hhi := hi.isLt
  have hlo := lo.isLt
  have hor : 256 * hi.toNat ||| lo.toNat = 256 * hi.toNat + lo.toNat :=
    (Nat.two_pow_add_eq_or_of_lt hlo hi.toNat).symm
  simp only [BitVec.toNat_or, BitVec.toNat_shiftLeft, BitVec.toNat_setWidth, Nat.shiftLeft_eq]
  rw [← hor]
  congr 1 <;> omega

theorem field_eq_ofNat (l : List Byte) (k : Nat) :
    field l k = BitVec.ofNat 16 (bigEndian (l.getD (3 * k) 0) (l.getD (3 * k + 1) 0)) := by
  rw [← field_toNat, BitVec.ofNat_toNat, BitVec.setWidth_eq]

/-- In the reference format a success delivers what R84 says of the response bytes (R140, R176, R180): the
fields of `MEASURE` and of `READ_STATUS` lie in the response, whose length their rows give (R101). -/
theorem okResult_payload {p : Params} {r : EsRegs} (hf : p.numOut = .exact)
    (hrow : ∀ row, r.op.row = some row → (r.opc, r.len) = row) :
    (okResult p r).payload = payload r (r.resp.take r.len.toNat) .none := by
  cases hop : r.op with
  | measure =>
    have hlen : r.len = 6#8 := (Prod.mk.inj (hrow _ (congrArg EsOp.row hop))).2
    simp [okResult_measure hop, payload, hop, hlen, hf, presentMeasure, temperature, humidity,
      Config.tScale, Config.rawMax, Config.tOffset, Config.hScale, field_toNat]
  | readStatus =>
    have hlen : r.len = 3#8 := (Prod.mk.inj (hrow _ (congrArg EsOp.row hop))).2
    simp [okResult, payload, hop, hlen, field_eq_ofNat]
  | _ => simp [okResult, payload, hop]

/-- In the reference format a transaction delivers what R84 says of its class and its response bytes. -/
theorem resultOf_eq_payload {p : Params} {r : EsRegs} (hf : p.numOut = .exact)
    (hrow : ∀ row, r.op.row = some row → (r.opc, r.len) = row) (o : LastErr) :
    resultOf p r o = ⟨Status.ofOutcome o, payload r (r.resp.take r.len.toNat) o⟩ := by
  rw [resultOf_eq]
  by_cases ho : o = .none
  · rw [if_pos ho, okResult_payload hf hrow, ho]
  · simp [payload, ho]

/-! A whole transaction (R139, R149, R150, R220). -/

theorem esSteps_of_idle (h : s.es.fsm = .idle) (k : Nat) : esSteps k s = s := by
  induction k with
  | zero => rfl
  | succ k ih => rw [esSteps, esStep_of_idle h, ih]

theorem esSteps_add (m n : Nat) (s : State) : esSteps (m + n) s = esSteps n (esSteps m s) := by
  induction m generalizing s with
  | zero => rw [Nat.zero_add, esSteps]
  | succ m ih => rw [Nat.succ_add, esSteps, ih, esSteps]

theorem toNat_ne_zero {b : Byte} (h : b ≠ 0) : b.toNat ≠ 0 :=
  fun hz => h (BitVec.eq_of_toNat_eq hz)

theorem busEvents_of_response {len : Nat} (hl : len ≠ 0) (opc : Half) (a : Option (List Byte)) :
    busEvents opc len true a =
      [.busWrite Config.busAddr (wireBytes opc) true, .busRead Config.busAddr len a] :=
  congrArg _ (if_pos ⟨rfl, hl⟩)

/-- A failed transfer ends the transaction with `BUS_ERROR`, whatever bytes were to come. -/
theorem payload_of_error {o : LastErr} (h : o ≠ .none) (r : EsRegs) (d : List Byte) :
    payload r d o = noData r.op := by
  simp [payload, h]

/-- The transaction in flight in `s` has ended in `t`: it has recorded the bus events `l` and delivered what its
class `o` and its response bytes `d` call for (R84, R148). -/
structure TransactionEnds (s t : State) (l : List Event) (o : LastErr) (d : List Byte) : Prop where
  idle : t.es.fsm = .idle
  lastErr : t.es.lastErr = o
  deltaT : t.es.deltaT = s.es.deltaT
  deltaH : t.es.deltaH = s.es.deltaH
  rf : t.rf = s.rf
  hist : t.hist = s.hist ++ l ++ [.complete .es ⟨Status.ofOutcome o, payload s.es d o⟩]

/-- Steps that record the events `l` on the way and keep what a result is made of may go before. -/
theorem TransactionEnds.after {s' t : State} {l l' : List Event} {o : LastErr} {d : List Byte}
    (h : TransactionEnds s' t l' o d) (hhist : s'.hist = s.hist ++ l) (hrf : s'.rf = s.rf)
    (hop : s'.es.op = s.es.op) (hT : s'.es.deltaT = s.es.deltaT) (hH : s'.es.deltaH = s.es.deltaH) :
    TransactionEnds s t (l ++ l') o d where
  idle := h.idle
  lastErr := h.lastErr
  deltaT := h.deltaT.trans hT
  deltaH := h.deltaH.trans hH
  rf := h.rf.trans hrf
  hist := by simp [h.hist, hhist, payload, hop, hT, hH]

/-- The write is answered `fail` (R143). -/
theorem transactionEnds_of_write_fail (h : s.es.fsm = .sending) (hw : s.writeDraw = false) (k : Nat)
    (d : List Byte) :
    TransactionEnds s (esSteps (k + 1) s) [.busWrite Config.busAddr (wireBytes s.es.opc) false] .bus
      d := by
  have hstep := (esStep_of_sending h).trans (esSend_fails hw)
  rw [esSteps, esSteps_of_idle (by rw [hstep]), hstep]
  exact ⟨rfl, rfl, rfl, rfl, rfl, by simp [payload_of_error, Status.ofOutcome]⟩

/-- The write is answered `ok` and no response is expected (R142). -/
theorem transactionEnds_of_no_response (hk : s.es.Kept s.cfg) (h : s.es.fsm = .sending)
    (hf : s.cfg.numOut = .exact) (hw : s.writeDraw = true) (hl : s.es.len = 0) (k : Nat) :
    TransactionEnds s (esSteps (k + 1) s) [.busWrite Config.busAddr (wireBytes s.es.opc) true] .none
      [] := by
  obtain ⟨-, herr, -, hrow⟩ := hk
  have hactive : s.es.fsm ≠ .idle := by simp [h]
  have hstep := (esStep_of_sending h).trans (esSend_ends hw hl)
  have hresult : okResult s.cfg s.es = ⟨.ok, payload s.es [] .none⟩ := by
    simpa [resultOf, hl, Status.ofOutcome] using resultOf_eq_payload hf (hrow hactive) .none
  rw [esSteps, esSteps_of_idle (by rw [hstep]), hstep]
  exact ⟨rfl, herr hactive, rfl, rfl, rfl, by simp [hresult, Status.ofOutcome]⟩

/-- From the reading step on, the read is answered `fail` (R146). -/
theorem transactionEnds_of_read_fail (h : s.es.fsm = .reading)
    (hd : s.readDraw s.es.len.toNat = none) (k : Nat) (d : List Byte) :
    TransactionEnds s (esSteps (k + 1) s) [.busRead Config.busAddr s.es.len.toNat none] .bus d := by
  have hstep := (esStep_of_reading h).trans (esRead_of_fail hd)
  rw [esSteps, esSteps_of_idle (by rw [hstep]), hstep]
  exact ⟨rfl, rfl, rfl, rfl, rfl, by simp [payload_of_error, Status.ofOutcome]⟩

/-- What the validating step delivers of the bytes `d` just read: the rest of the buffer has no part in it
(R145, R147). -/
theorem resultOf_read {d : List Byte} (hf : s.cfg.numOut = .exact)
    (hrow : ∀ row, s.es.op.row = some row → (s.es.opc, s.es.len) = row)
    (hd : d.length = s.es.len.toNat) (o : LastErr) :
    resultOf s.cfg { s.es with resp := writeResp s.es.resp d, fsm := .validating } o =
      ⟨Status.ofOutcome o, payload s.es d o⟩ := by
  have htake : (writeResp s.es.resp d).take s.es.len.toNat = d := List.take_left' hd
  rw [resultOf_eq_payload hf, htake]
  · rfl
  · exact hrow

theorem validate_writeResp {d : List Byte} {n : Nat} (hd : d.length = n) (resp : List Byte) :
    validate (writeResp resp d) n = validate d n := by
  rw [← validate_take, writeResp, List.take_left' hd]

/-- From the reading step on, the read is answered with bytes, which are validated (R145, R147). -/
theorem transactionEnds_of_bytes (hk : s.es.Kept s.cfg) (h : s.es.fsm = .reading)
    (hf : s.cfg.numOut = .exact) {d : List Byte} (hd : s.readDraw s.es.len.toNat = some d) :
    TransactionEnds s (esSteps 2 s) [.busRead Config.busAddr s.es.len.toNat (some d)]
      (validate d s.es.len.toNat) d := by
  obtain ⟨-, herr, -, hrow⟩ := hk
  have hactive : s.es.fsm ≠ .idle := by simp [h]
  have hlen := s.readDraw_length _ d hd
  have hstep := (esStep_of_reading h).trans (esRead_of_bytes hd)
  rw [esSteps, hstep, esSteps, esStep_of_validating rfl, esValidate_eq, esSteps]
  simp only [validate_writeResp hlen, resultOf_read hf (hrow hactive) hlen]
  refine ⟨rfl, ?_, rfl, rfl, rfl, rfl⟩
  simp [EsRegs.ended, herr hactive, eq_comm]

/-- From the reading step on, whatever the read answers. -/
theorem transactionEnds_of_reading (hk : s.es.Kept s.cfg) (h : s.es.fsm = .reading)
    (hf : s.cfg.numOut = .exact) (hl : s.es.len ≠ 0) :
    TransactionEnds s (esSteps 2 s)
      [.busRead Config.busAddr s.es.len.toNat (s.readDraw s.es.len.toNat)]
      (outcome s.es.len.toNat true (s.readDraw s.es.len.toNat))
      ((s.readDraw s.es.len.toNat).getD []) := by
  have hlen := toNat_ne_zero hl
  cases hd : s.readDraw s.es.len.toNat with
  | none => simpa [outcome, hlen] using transactionEnds_of_read_fail h hd 1 []
  | some d => simpa [outcome, hlen] using transactionEnds_of_bytes hk h hf hd

/-- The write is answered `ok` and a response is expected: two steps on, ES reads (R142, R144). -/
theorem esSteps_to_reading (h : s.es.fsm = .sending) (hw : s.writeDraw = true) (hl : s.es.len ≠ 0) :
    esSteps 2 s =
      { s with
        es := { s.es with fsm := .reading }
        hist := s.hist ++ [.busWrite Config.busAddr (wireBytes s.es.opc) true]
        env := { s.env with writes := s.env.writes.spend } } := by
  rw [esSteps, esStep_of_sending h, esSend_awaits hw hl, esSteps, esStep_of_waitSettle rfl]
  rfl

/-- The settle step leaves a well-kept ES that expects a response in its reading step (R144). -/
theorem EsRegs.Kept.reading {p : Params} {r : EsRegs} (hk : r.Kept p) (hf : r.fsm ≠ .idle)
    (hl : r.len ≠ 0) : { r with fsm := .reading }.Kept p := by
  obtain ⟨hbuf, herr, ⟨hlegal, -⟩, hrow⟩ := hk
  exact ⟨hbuf, fun _ => herr hf, ⟨fun _ => hlegal hf, fun _ _ => hl⟩, fun _ => hrow hf⟩

/-- The write is answered `ok` and a response is expected: four steps to the end. -/
theorem transactionEnds_of_response (hk : s.es.Kept s.cfg) (h : s.es.fsm = .sending)
    (hf : s.cfg.numOut = .exact) (hw : s.writeDraw = true) (hl : s.es.len ≠ 0) :
    TransactionEnds s (esSteps 4 s)
      [.busWrite Config.busAddr (wireBytes s.es.opc) true,
        .busRead Config.busAddr s.es.len.toNat (s.readDraw s.es.len.toNat)]
      (outcome s.es.len.toNat true (s.readDraw s.es.len.toNat))
      ((s.readDraw s.es.len.toNat).getD []) := by
  rw [show 4 = 2 + 2 from rfl, esSteps_add, esSteps_to_reading h hw hl]
  exact .after (l := [_]) (transactionEnds_of_reading (hk.reading (by simp [h]) hl) rfl hf hl)
    rfl rfl rfl rfl rfl

/-- A transaction ends in four steps, with what its bus answers call for (R150, R220). -/
theorem transactionEnds (hk : s.es.Kept s.cfg) (h : s.es.fsm = .sending)
    (hf : s.cfg.numOut = .exact) :
    TransactionEnds s (esSteps 4 s)
      (busEvents s.es.opc s.es.len.toNat s.writeDraw (s.readDraw s.es.len.toNat))
      (outcome s.es.len.toNat s.writeDraw (s.readDraw s.es.len.toNat))
      (if s.es.len = 0 then [] else (s.readDraw s.es.len.toNat).getD []) := by
  cases hw : s.writeDraw with
  | false => exact transactionEnds_of_write_fail h hw 3 _
  | true =>
    by_cases hl : s.es.len = 0
    · rw [if_pos hl, hl]
      exact transactionEnds_of_no_response hk h hf hw hl 3
    · rw [if_neg hl, busEvents_of_response (toNat_ne_zero hl)]
      exact transactionEnds_of_response hk h hf hw hl

/-- Settles O37: the parts of `transactionEnds`. -/
theorem transactionComputesItsOutcome : Obligations.TransactionComputesItsOutcome := by
  intro s hk h hf
  obtain ⟨hidle, herr, hT, hH, hrf, hhist⟩ := transactionEnds hk h hf
  exact ⟨hidle, herr, hT, hH, hrf, hhist⟩

end Sys2Proof.Machine
end

section
/-! The CRC-8 engine (`42_crc8.md` R160 to R163): its bit step is linear and one-to-one, and so are eight bit steps;
that `crc8` is affine, a bijection in each byte, and shows every single flipped bit follows. -/

namespace Sys2Proof.Machine

open Sys2Proof.Claims

/-! The bit step. -/

/-- Settles O44: bit 8 of the shifted byte and of the polynomial is cut off, and leaves `0x31`. -/
theorem eightBitStepForm : Obligations.EightBitStepForm := by
  intro c
  have hshift : (c.setWidth 9 <<< 1).setWidth 8 = c <<< 1 := by
    ext i hi
    simp
  unfold crcBit
  split
  · rw [BitVec.setWidth_xor, hshift]
    rfl
  · rw [hshift, BitVec.xor_zero]

/-- Settles O43: the checksum evaluates to each printed value. -/
theorem checksumExamples : Obligations.ChecksumExamples := by
  unfold Obligations.ChecksumExamples
  decide +kernel

/-- The checksum of zero bytes (R162). -/
theorem crc8_zero_zero : crc8 0 0 = 0x81 :=
  have ⟨h, _⟩ := checksumExamples
  h

/-- The polynomial is applied to a sum as often, modulo 2, as to its parts. -/
theorem crcBit_xor (a b : Byte) : crcBit (a ^^^ b) = crcBit a ^^^ crcBit b := by
  have hpoly : ∀ x y : Bool, (if (x ^^ y) = true then 0x31#8 else 0#8) =
      (if x = true then 0x31#8 else 0#8) ^^^ (if y = true then 0x31#8 else 0#8) := by decide
  rw [eightBitStepForm, eightBitStepForm a, eightBitStepForm b, BitVec.shiftLeft_xor_distrib,
    BitVec.getLsbD_xor, hpoly]
  ac_rfl

/-- The polynomial sets bit 0, which the shift leaves clear: it shows whether the bit shifted out was 1. -/
theorem crcBit_getLsbD_zero (c : Byte) : (crcBit c).getLsbD 0 = c.getLsbD 7 := by
  rw [eightBitStepForm]
  cases c.getLsbD 7 <;> simp

/-- Bit 7 is read off bit 0 of the result (`crcBit_getLsbD_zero`), the others off the shifted byte. -/
theorem crcBit_injective : Function.Injective crcBit := by
  intro a b h
  have hlead : a.getLsbD 7 = b.getLsbD 7 := by
    rw [← crcBit_getLsbD_zero, h, crcBit_getLsbD_zero]
  have hshift : a <<< 1 = b <<< 1 := by
    rw [eightBitStepForm, eightBitStepForm b, hlead] at h
    exact (BitVec.xor_left_inj _).1 h
  ext i hi
  obtain rfl | hlow : i = 7 ∨ i + 1 < 8 := by omega
  · exact hlead
  · simpa [hlow] using congrArg (·.getLsbD (i + 1)) hshift

/-! Eight bit steps, and the checksum. -/

theorem crcBits_xor (a b : Byte) : crcBits (a ^^^ b) = crcBits a ^^^ crcBits b := by
  simp only [crcBits, crcBit_xor]

theorem crcBits_injective : Function.Injective crcBits := crcBit_injective.iterate 8

/-- Taking a byte into the register is linear in the register and the byte together. -/
theorem crcByte_xor (c d a b : Byte) : crcByte (c ^^^ d) (a ^^^ b) = crcByte c a ^^^ crcByte d b := by
  have hswap : (c ^^^ d) ^^^ (a ^^^ b) = (c ^^^ a) ^^^ (d ^^^ b) := by ac_rfl
  rw [crcByte, hswap, crcBits_xor]
  rfl

/-- Two registers that one byte makes the same were the same. -/
theorem crcByte_injective_left (b : Byte) : Function.Injective (crcByte · b) := fun _ _ h =>
  (BitVec.xor_left_inj b).1 (crcBits_injective h)

/-- Two bytes that make the same of one register are the same. -/
theorem crcByte_injective_right (c : Byte) : Function.Injective (crcByte c) := fun _ _ h =>
  (BitVec.xor_right_inj c).1 (crcBits_injective h)

theorem crc8_injective_left (b1 : Byte) : Function.Injective (crc8 · b1) :=
  (crcByte_injective_left b1).comp (crcByte_injective_right Config.crcInit)

theorem crc8_injective_right (b0 : Byte) : Function.Injective (crc8 b0) :=
  crcByte_injective_right _

/-- Settles O45: by linearity the right side is the checksum of the summed bytes from the sum of three initial
values, which is one of them. -/
theorem checksumIsAffine : Obligations.ChecksumIsAffine := by
  intro x0 x1 y0 y1
  simp only [crc8, ← crcByte_xor, BitVec.xor_self, BitVec.zero_xor, xor_zero]

/-- Settles O46: a map of bytes that is one-to-one (`crc8_injective_right`) reaches every byte. -/
theorem checksumIsBijective : Obligations.ChecksumIsBijective := fun b0 =>
  Finite.injective_iff_bijective.1 (crc8_injective_right b0)

/-! Errors in a group (R163, R164). -/

theorem groupOk_triple (b0 b1 x : Byte) : groupOk [b0, b1, x] 0 = (crc8 b0 b1 == x) := rfl

/-- Flipping a bit changes a byte. -/
theorem flip_ne (b : Byte) {i : Nat} (hi : i < 8) : b ^^^ (1#8 <<< i) ≠ b := by
  have hbit : 1#8 <<< i ≠ 0 := fun h => by
    simpa [hi] using congrArg (·.getLsbD i) h
  simpa using hbit

/-- Settles O47: with one data byte flipped the checksum is another, as it is one-to-one in each; a flipped check
byte is not the checksum. -/
theorem singleBitErrorsAreCaught : Obligations.SingleBitErrorsAreCaught := by
  intro b0 b1 i hi
  simp only [groupOk_triple, beq_eq_false_iff_ne]
  exact ⟨(crc8_injective_left b1).ne (flip_ne b0 hi), (crc8_injective_right b0).ne (flip_ne b1 hi),
    (flip_ne _ hi).symm⟩

end Sys2Proof.Machine
end

section
/-! The validator (`42_crc8.md` R164, R165, R167): the class of a response, by its groups. -/

namespace Sys2Proof.Machine

open Sys2Proof.Claims

/-- Line 1 of R165: every byte of the response is zero. -/
def AllZero (resp : List Byte) (n : Nat) : Prop := ∀ i < n, respByte resp i = 0

/-- Every group checks (R164): line 2 of R165 does not apply. -/
def AllGroupsOk (resp : List Byte) (n : Nat) : Prop := ∀ k < n / 3, groupOk resp k = true

/-- Line 3 of R165: all data bytes are zero. -/
def AllGroupsZero (resp : List Byte) (n : Nat) : Prop := ∀ k < n / 3, groupZero resp k = true

/-- Everything the validator can answer, by the line of R165 that applies. -/
theorem validate_cases (resp : List Byte) (n : Nat) :
    (AllZero resp n ∧ validate resp n = .data) ∨
    (¬AllZero resp n ∧ ¬AllGroupsOk resp n ∧ validate resp n = .crc) ∨
    (¬AllZero resp n ∧ AllGroupsOk resp n ∧ AllGroupsZero resp n ∧ validate resp n = .data) ∨
    (¬AllZero resp n ∧ AllGroupsOk resp n ∧ ¬AllGroupsZero resp n ∧ validate resp n = .none) := by
  have hzero : (List.range n).all (fun i => respByte resp i == 0) = true ↔ AllZero resp n := by
    simp [AllZero]
  have hbad : (List.range (n / 3)).any (fun k => !groupOk resp k) = true ↔ ¬AllGroupsOk resp n := by
    simp [AllGroupsOk]
  have hdata :
      (List.range (n / 3)).all (fun k => groupZero resp k) = true ↔ AllGroupsZero resp n := by
    simp [AllGroupsZero]
  unfold validate
  split_ifs with h1 h2 h3
  · exact .inl ⟨hzero.1 h1, rfl⟩
  · exact .inr (.inl ⟨hzero.not.1 h1, hbad.1 h2, rfl⟩)
  · exact .inr (.inr (.inl ⟨hzero.not.1 h1, not_not.1 (hbad.not.1 h2), hdata.1 h3, rfl⟩))
  · exact .inr (.inr (.inr ⟨hzero.not.1 h1, not_not.1 (hbad.not.1 h2), hdata.not.1 h3, rfl⟩))

/-- Zero bytes with the check byte zero are no valid group: their checksum is `0x81`. -/
theorem AllZero.not_allGroupsOk {resp : List Byte} {n : Nat} (h : AllZero resp n) (hn : 3 ≤ n) :
    ¬AllGroupsOk resp n := by
  intro hok
  have hgroup : crc8 (respByte resp 0) (respByte resp 1) = respByte resp 2 :=
    eq_of_beq (hok 0 (by omega))
  rw [h 0 (by omega), h 1 (by omega), h 2 (by omega), crc8_zero_zero] at hgroup
  exact absurd hgroup (by decide)

theorem validate_eq_none_iff (resp : List Byte) {n : Nat} (hn : 3 ≤ n) :
    validate resp n = .none ↔ AllGroupsOk resp n ∧ ¬AllGroupsZero resp n := by
  obtain ⟨hz, e⟩ | ⟨-, hb, e⟩ | ⟨-, -, hd, e⟩ | ⟨-, hok, hd, e⟩ := validate_cases resp n
  · simp [e, hz.not_allGroupsOk hn]
  · simp [e, hb]
  · simp [e, hd]
  · simp [e, hok, hd]

theorem validate_eq_crc_iff (resp : List Byte) (n : Nat) :
    validate resp n = .crc ↔ ¬AllZero resp n ∧ ¬AllGroupsOk resp n := by
  obtain ⟨hz, e⟩ | ⟨hz, hb, e⟩ | ⟨-, hok, -, e⟩ | ⟨-, hok, -, e⟩ := validate_cases resp n
  · simp [e, hz]
  · simp [e, hz, hb]
  · simp [e, hok]
  · simp [e, hok]

theorem validate_eq_data_iff (resp : List Byte) (n : Nat) :
    validate resp n = .data ↔ AllZero resp n ∨ AllGroupsOk resp n ∧ AllGroupsZero resp n := by
  obtain ⟨hz, e⟩ | ⟨hz, hb, e⟩ | ⟨-, hok, hd, e⟩ | ⟨hz, -, hd, e⟩ := validate_cases resp n
  · simp [e, hz]
  · simp [e, hz, hb]
  · simp [e, hok, hd]
  · simp [e, hz, hd]

/-- Validation is no bus transfer (R165). -/
theorem validate_ne_bus (resp : List Byte) (n : Nat) : validate resp n ≠ .bus := by
  obtain ⟨-, e⟩ | ⟨-, -, e⟩ | ⟨-, -, -, e⟩ | ⟨-, -, -, e⟩ := validate_cases resp n <;> simp [e]

/-- Settles O48: the lines of R165, where a response of zero bytes fails its groups too. -/
theorem validatorClasses : Obligations.ValidatorClasses := by
  intro resp n h3 h0
  refine ⟨?_, ?_, validate_eq_data_iff resp n, validate_ne_bus resp n⟩
  · simp [validate_eq_none_iff resp (show 3 ≤ n by omega), AllGroupsOk, AllGroupsZero]
  · simp [validate_eq_crc_iff, AllZero, AllGroupsOk]

section

variable (b0 b1 x : Byte)

theorem allZero_triple : AllZero [b0, b1, x] 3 ↔ b0 = 0 ∧ b1 = 0 ∧ x = 0 := by
  constructor
  · intro h
    exact ⟨h 0 (by decide), h 1 (by decide), h 2 (by decide)⟩
  · rintro ⟨rfl, rfl, rfl⟩ i hi
    interval_cases i <;> rfl

theorem allGroupsOk_triple : AllGroupsOk [b0, b1, x] 3 ↔ x = crc8 b0 b1 := by
  simpa [AllGroupsOk, groupOk_triple] using eq_comm

theorem allGroupsZero_triple : AllGroupsZero [b0, b1, x] 3 ↔ b0 = 0 ∧ b1 = 0 := by
  simp [AllGroupsZero, groupZero, respByte]

end

/-- Settles O49: the classes of O48 for one group. -/
theorem statusResponseClasses : Obligations.StatusResponseClasses := by
  refine ⟨fun x => ?_, fun b0 b1 x h => ?_⟩
  · split_ifs with hx
    · rw [validate_eq_data_iff, allZero_triple, allGroupsOk_triple, allGroupsZero_triple,
        crc8_zero_zero]
      exact hx.imp (⟨rfl, rfl, ·⟩) (⟨·, rfl, rfl⟩)
    · obtain ⟨hzero, hcheck⟩ := not_or.1 hx
      rw [validate_eq_crc_iff, allZero_triple, allGroupsOk_triple, crc8_zero_zero]
      exact ⟨fun ⟨_, _, h0⟩ => hzero h0, hcheck⟩
  · have hdata : ¬(b0 = 0 ∧ b1 = 0) := not_and_or.2 h
    split_ifs with hx
    · rw [validate_eq_none_iff _ le_rfl, allGroupsOk_triple, allGroupsZero_triple]
      exact ⟨hx, hdata⟩
    · rw [validate_eq_crc_iff, allZero_triple, allGroupsOk_triple]
      exact ⟨fun ⟨h0, h1, _⟩ => hdata ⟨h0, h1⟩, hx⟩

end Sys2Proof.Machine
end

section
/-! Readings (`43_es_derived.md` R176, R180): a status word or a pair of values is delivered only of a response that
validates, and so never of zero fields (R165, R167, R267). -/

namespace Sys2Proof.Machine

open Sys2Proof.Claims

/-- The payload has a value read from the sensor's response: a status word, or a temperature and humidity. -/
def Payload.IsReading (payload : Payload) : Prop :=
  match payload with
  | .word _ => True
  | .pair (some _) (some _) => True
  | _ => False

/-- The event delivers a reading. -/
def Event.DeliversReading (e : Event) : Prop :=
  match e with
  | .complete _ r => r.payload.IsReading
  | _ => False

/-! Unit RF delivers none. -/

/-- `t` has the history of `s` and further events, which deliver no reading. -/
def AddsNoReading (s t : State) : Prop := ∃ l, t.hist = s.hist ++ l ∧ ∀ e ∈ l, ¬e.DeliversReading

theorem addsNoReading_of_hist {s t : State} (h : t.hist = s.hist) : AddsNoReading s t :=
  ⟨[], by simp [h], by simp⟩

theorem addsNoReading_of_event {s t : State} {e : Event} (h : t.hist = s.hist ++ [e])
    (he : ¬e.DeliversReading) : AddsNoReading s t :=
  ⟨[e], h, by simpa using he⟩

/-- The finish delivers a distance or nothing (R117, R122). -/
theorem RfRegs.finishResult_not_isReading (f : NumOut) (r : RfRegs) :
    ¬(r.finishResult f).payload.IsReading := by
  unfold RfRegs.finishResult
  split <;> exact id

/-- A step of an operation of RF records samples, and ends with a time-out or the finish (R114 to R118). -/
theorem rfStep_addsNoReading (s : State) : AddsNoReading s s.rfStep := by
  have hsampled {level : Bool} {r : RfRegs} (e : s.rfStep = s.sampled level r) :
      AddsNoReading s s.rfStep :=
    addsNoReading_of_event (e := .echoSample level s.rf.cnt) (by rw [e]; rfl) id
  obtain ⟨-, e⟩ | ⟨-, e⟩ | ⟨-, -, e⟩ | ⟨h, hc, -⟩ | ⟨h, hc, -⟩ := rfStep_cases s
  · exact addsNoReading_of_hist (by rw [e])
  · exact addsNoReading_of_event (e := .trigLow) (by rw [e]; rfl) id
  · exact addsNoReading_of_event (by rw [e]; rfl) id
  · cases he : s.echoDraw with
    | false => exact hsampled (rfStep_of_low h hc he)
    | true => exact hsampled (rfStep_of_rise h hc he)
  · cases he : s.echoDraw with
    | true => exact hsampled (rfStep_of_high h hc he)
    | false =>
      obtain ⟨c, -, e⟩ := rfStep_of_fall h hc he
      exact ⟨_, by rw [e],
        by simp [Event.DeliversReading, RfRegs.finishResult_not_isReading]⟩

/-- Everything a step of RF, its requests among them, can do. -/
theorem runRf_cases {s t : State} (h : runRf s = .next t) :
    t = s.rfStep ∨ (∃ i op, t = s.rfRequest i op) ∨ t = requestGone s .rf := by
  cases hp : s.presented .rf with
  | none =>
    rw [runRf_of_no_request hp] at h
    cases h
    exact .inl rfl
  | some r =>
    have hrun : runRf s = runRequest .rf r s := runUnit_of_request (u := .rf) hp
    rw [hrun] at h
    by_cases hown : ∃ i, decodeHost r.fields = .ok i ∧ i.unit = .rf
    · obtain ⟨i, hd, hi⟩ := hown
      rw [runRequest_of_own hd hi] at h
      cases i with
      | measureCm => cases h; exact .inr (.inl ⟨_, _, rfl⟩)
      | measureIn => cases h; exact .inr (.inl ⟨_, _, rfl⟩)
      | _ => cases hi
    · rw [runRequest_of_not_own fun i hd hi => hown ⟨i, hd, hi⟩] at h
      cases h
      exact .inr (.inr rfl)

theorem rfRequest_addsNoReading (s : State) (i : Instr) (op : RfOp) :
    AddsNoReading s (s.rfRequest i op) := by
  obtain ⟨-, e⟩ | ⟨-, e⟩ := rfRequest_cases s i op <;> rw [e]
  · exact ⟨[.accept .rf i, .trigHigh], by simp [State.rfAccept], by simp [Event.DeliversReading]⟩
  · exact addsNoReading_of_hist (s.withdraw_hist .rf)

theorem runRf_addsNoReading {s t : State} (h : runRf s = .next t) : AddsNoReading s t := by
  obtain rfl | ⟨i, op, rfl⟩ | rfl := runRf_cases h
  · exact rfStep_addsNoReading s
  · exact rfRequest_addsNoReading s i op
  · exact addsNoReading_of_hist rfl

/-! Unit ES. -/

/-- A transaction that ends in error delivers no reading (R213). -/
theorem errorPayload_not_isReading (op : EsOp) : ¬(errorPayload op).IsReading := by
  cases op <;> exact id

/-- Only `MEASURE` and `READ_STATUS` interpret their response (R84). -/
theorem okResult_not_isReading {r : EsRegs} (hm : r.op ≠ .measure) (hs : r.op ≠ .readStatus)
    (p : Params) : ¬(okResult p r).payload.IsReading := by
  cases h : r.op with
  | measure => exact absurd h hm
  | readStatus => exact absurd h hs
  | _ => simp [okResult, h, Payload.IsReading]

theorem resultOf_isReading {p : Params} {r : EsRegs} {o : LastErr}
    (h : (resultOf p r o).payload.IsReading) : o = .none ∧ resultOf p r o = okResult p r := by
  by_cases ho : o = .none
  · exact ⟨ho, if_pos ho⟩
  · rw [resultOf, if_neg ho] at h
    exact absurd h (errorPayload_not_isReading r.op)

/-- Of ES's transitions, only the validating of a response that checks delivers a reading. -/
theorem EsTrans.reading {p : Params} {r r' : EsRegs} {l : List Event} (ht : EsTrans p r r' l)
    (hk : r.Kept p) : ∀ e ∈ l, e.DeliversReading →
      r.fsm = .validating ∧ validate r.resp r.len.toNat = .none ∧
        e = .complete .es (okResult p r) := by
  cases ht with
  | validates h ho =>
    intro e he hr
    rw [List.mem_singleton.1 he] at hr ⊢
    obtain ⟨hnone, hok⟩ := resultOf_isReading hr
    exact ⟨h, ho.symm.trans hnone, congrArg _ hok⟩
  | sendEnds h hlen =>
    obtain ⟨hm, hs⟩ := hk.interprets_nothing (by simp [h]) hlen
    simp [Event.DeliversReading, resultOf, okResult_not_isReading hm hs]
  | sendFails h => simp [Event.DeliversReading, resultOf, errorPayload_not_isReading]
  | readFails h hlen => simp [Event.DeliversReading, resultOf, errorPayload_not_isReading]
  | _ => simp [Event.DeliversReading, Payload.IsReading]

/-! The fields of a response that validates (R87, R167). -/

/-- The response length of a derived operation in flight is that of its row (R101). -/
theorem EsRegs.Kept.len_of_row {p : Params} {r : EsRegs} (hk : r.Kept p) (hf : r.fsm ≠ .idle)
    {opc : Half} {len : Byte} (h : r.op.row = some (opc, len)) : r.len = len := by
  obtain ⟨-, -, -, hrow⟩ := hk
  exact (Prod.mk.inj (hrow hf _ h)).2

/-- A response that is validated has a group (R63). -/
theorem EsRegs.Kept.three_le_len {p : Params} {r : EsRegs} (hk : r.Kept p)
    (h : r.fsm = .validating) : 3 ≤ r.len.toNat := by
  obtain ⟨-, -, ⟨hlegal, hlen⟩, -⟩ := hk
  obtain ⟨-, hmin, -⟩ :=
    lengthLegal_bounds (hlegal (by simp [h])) (hlen (by simp [h]) (by simp [h]))
  exact hmin

/-- The data bytes of a group are zero when its field is (R87). -/
theorem groupZero_iff_field (resp : List Byte) (k : Nat) :
    groupZero resp k = true ↔ field resp k = 0 := by
  have hfield : field resp k = 0 ↔ (field resp k).toNat = 0 := BitVec.toNat_eq
  have hbyte (b : Byte) : b = 0 ↔ b.toNat = 0 := BitVec.toNat_eq
  rw [hfield, field_toNat, bigEndian, groupZero, Bool.and_eq_true, beq_iff_eq, beq_iff_eq, hbyte,
    hbyte]
  unfold respByte
  omega

theorem allGroupsZero_iff_fields (resp : List Byte) (n : Nat) :
    AllGroupsZero resp n ↔ ∀ k < n / 3, field resp k = 0 :=
  forall₂_congr fun k _ => groupZero_iff_field resp k

/-- A response that validates has a field that is not zero (R165, R167). -/
theorem exists_field_ne_zero {p : Params} {r : EsRegs} (hk : r.Kept p) (h : r.fsm = .validating)
    (hv : validate r.resp r.len.toNat = .none) : ∃ k < r.len.toNat / 3, field r.resp k ≠ 0 := by
  obtain ⟨-, hdata⟩ := (validate_eq_none_iff _ (hk.three_le_len h)).1 hv
  simpa [allGroupsZero_iff_fields] using hdata

/-! The block. -/

/-- A step that delivers a reading validates a response with a field that is not zero. -/
theorem step_reading {s t : State} (hk : s.es.Kept s.cfg) (h : step s = .next t) {u : UnitId}
    {res : Result} (hl : Event.complete u res ∈ newEvents s t) (hres : res.payload.IsReading) :
    s.es.fsm = .validating ∧ res = okResult s.cfg s.es ∧
      ∃ k < s.es.len.toNat / 3, field s.es.resp k ≠ 0 := by
  obtain ⟨-, e⟩ | ⟨-, -, e⟩ | ⟨-, -, e⟩ | ⟨-, -, e⟩ := step_cases s <;> rw [e] at h
  · cases h
    simp [newEvents] at hl
  · obtain ⟨l, hhist, hno⟩ := runRf_addsNoReading h
    rw [State.spendTurn_hist] at hhist
    rw [newEvents_of_hist hhist] at hl
    exact absurd hres (hno _ hl)
  · obtain ⟨l, hhist, ht⟩ := runEs_acts h
    simp only [State.spendTurn_cfg, State.spendTurn_es, State.spendTurn_hist] at hhist ht
    rw [newEvents_of_hist hhist] at hl
    obtain ⟨hf, hv, heq⟩ := ht.reading hk _ hl hres
    exact ⟨hf, (Event.complete.inj heq).2, exists_field_ne_zero hk hf hv⟩
  · cases h
    simp [newEvents] at hl

/-- The status word is the first field (R180). -/
theorem word_eq_okResult {p : Params} {r : EsRegs} {st : Status} {w : Half}
    (h : ⟨st, .word w⟩ = okResult p r) : r.op = .readStatus ∧ w = field r.resp 0 := by
  cases hop : r.op with
  | readStatus => exact ⟨rfl, by simpa [okResult, hop] using congrArg Result.payload h⟩
  | _ => simp [okResult, hop] at h

theorem pair_eq_okResult {p : Params} {r : EsRegs} {st : Status} {a b : Option Q}
    (h : ⟨st, .pair a b⟩ = okResult p r) : r.op = .measure := by
  cases hop : r.op with
  | measure => rfl
  | _ => simp [okResult, hop] at h

/-- The validating step delivers what the class of the response calls for (R147, R148). -/
theorem lastResult_of_validating {s : State} (h : s.es.fsm = .validating) :
    s.esStep.lastResult .es =
      some (resultOf s.cfg s.es (validate s.es.resp s.es.len.toNat)) :=
  lastResult_of_hist (by rw [esStep_of_validating h, esValidate_eq])

/-- Settles O39: a delivered reading comes of a response with a field that is not zero, one of those that its
length gives it; the class of a response of zero fields is neither `OK` nor one of the bus. -/
theorem zeroIsNeverDelivered : Obligations.ZeroIsNeverDelivered := by
  refine ⟨?_, ?_, fun s hk h _ hzero => ?_⟩
  · rintro s t u st w ⟨-, hk⟩ h hl
    obtain ⟨hf, hres, k, hlt, hne⟩ := step_reading hk h hl trivial
    obtain ⟨hop, rfl⟩ := word_eq_okResult hres
    have hlen : s.es.len = 3#8 := hk.len_of_row (by simp [hf]) (congrArg EsOp.row hop)
    obtain rfl : k = 0 := by simpa [hlen] using hlt
    exact hne
  · rintro s t u st a b ⟨-, hk⟩ h hl
    obtain ⟨hf, hres, k, hlt, hne⟩ := step_reading hk h hl trivial
    have hop := pair_eq_okResult hres
    have hlen : s.es.len = 6#8 := hk.len_of_row (by simp [hf]) (congrArg EsOp.row hop)
    obtain rfl | rfl : k = 0 ∨ k = 1 := by
      have htwo : k < 2 := by simpa [hlen] using hlt
      omega
    · exact .inl hne
    · exact .inr hne
  · rw [lastResult_of_validating h, resultOf_eq]
    cases hv : validate s.es.resp s.es.len.toNat with
    | none =>
      obtain ⟨k, hlt, hne⟩ := exists_field_ne_zero hk h hv
      exact absurd (hzero k hlt) hne
    | bus => exact absurd hv (validate_ne_bus _ _)
    | data => exact ⟨.dataError, .inl rfl, rfl⟩
    | crc => exact ⟨.crcError, .inr rfl, rfl⟩

end Sys2Proof.Machine
end

section
/-! The two operations of ES that complete in one step (`43_es_derived.md`, R185 and R186). Neither is a
transaction, so ES stays idle throughout. -/

namespace Sys2Proof.Machine

variable {s : State}

/-- An idle ES that completes only records its result (R148). -/
theorem State.complete_es_of_idle (h : s.es.fsm = .idle) (r : Result) :
    s.complete .es r = s.record (.complete .es r) := by
  simp only [State.complete, EsRegs.withIdle h]
  rfl

/-! `IS_PRESENT` (R185). -/

theorem presentIn_some (l : List Addr7) : presentIn (some l) = decide (0x45#7 ∈ l) :=
  List.contains_eq_mem _ _

theorem execIsPresent_of_idle (h : s.es.fsm = .idle) :
    execIsPresent s = .next (s.withdraw .es).esScan := by
  simp [execIsPresent, State.esReady, h]

/-- The one step on an idle ES: three events, one scan drawn, no register written. -/
theorem esScan_of_idle (h : s.es.fsm = .idle) :
    s.esScan =
      { s with
        hist := s.hist ++
          [.accept .es .isPresent, .busScan s.scanDraw,
            .complete .es ⟨.ok, .bit (presentIn s.scanDraw)⟩]
        env := { s.env with scans := s.env.scans.spend } } := by
  rw [State.esScan, State.complete_es_of_idle (by simpa using h)]
  simp [State.record, State.spendScan, State.setEnv]

/-- Settles O40: the step is `esScan_of_idle`, and an answer or a failed scan gives the bit. -/
theorem presenceScan : Obligations.PresenceScan := by
  intro s h
  have hexec : exec .isPresent s = .next (s.withdraw .es).esScan := execIsPresent_of_idle h
  rw [hexec, esScan_of_idle (by simpa using h)]
  have hdraw : (s.withdraw .es).scanDraw = s.scanDraw := rfl
  rw [hdraw]
  cases s.scanDraw with
  | some l => rw [presentIn_some]; rfl
  | none => rfl

/-! `SET_CALIBRATION` (R186). -/

/-- The one step on an idle ES: both deltas and two events. -/
theorem esCalibrate_of_idle (h : s.es.fsm = .idle) (qa qb : Q) :
    s.esCalibrate qa qb =
      { s with
        es := { s.es with deltaT := qa, deltaH := qb }
        hist := s.hist ++
          [.accept .es (.setCalibration qa qb), .complete .es ⟨.ok, .nothing⟩] } := by
  rw [State.esCalibrate, State.complete_es_of_idle (by simpa using h)]
  simp [State.record, State.setEs]

/-- Settles O41: rationals of the format make the request well-formed, and the step is
`esCalibrate_of_idle`. -/
theorem calibrationSetsBothDeltas : Obligations.CalibrationSetsBothDeltas := by
  intro s qa qb h ha hb
  have hwf : (Instr.setCalibration qa qb).wellFormed s.cfg = true := by
    simp [Instr.wellFormed, ha, hb]
  have hexec : exec (.setCalibration qa qb) s = .next ((s.withdraw .es).esCalibrate qa qb) :=
    execSetCalibration_of_accepted h hwf
  rw [hexec, esCalibrate_of_idle (by simpa using h)]
  rfl

end Sys2Proof.Machine
end

section
/-! How operations end and what no step takes away (`60_exceptions.md`): the delivered status against `LAST_ERR`
(R214), waiting with every register held (R237), and that the block goes on, adding to its history (R213,
R222). -/

namespace Sys2Proof.Machine

/-! The completing step of a transaction (R148, R214). -/

/-- From a clear `LAST_ERR`, the register ends with the transaction's outcome. -/
theorem EsRegs.ended_lastErr {r : EsRegs} (h : r.lastErr = .none) (o : LastErr) :
    (r.ended o).lastErr = o := by
  cases o with
  | none => exact h
  | _ => rfl

/-- The last event of a transition that completes a transaction delivers the result of the class that
`LAST_ERR` then holds. -/
theorem EsTrans.completes {p : Params} {r r' : EsRegs} {l : List Event} (ht : EsTrans p r r' l)
    (herr : r.lastErr = .none) (hf : r.fsm ≠ .idle) (hf' : r'.fsm = .idle) :
    ∃ l' q, l = l' ++ [.complete .es (resultOf p q r'.lastErr)] := by
  cases ht with
  | hold => exact absurd hf' hf
  | accept h hs => exact absurd h hf
  | scan h a => exact absurd h hf
  | calibrate h qa qb => exact absurd h hf
  | send h hl => cases hf'
  | settle h => cases hf'
  | read h hd => cases hf'
  | sendEnds h hl => exact ⟨[_], r, by rw [EsRegs.ended_lastErr herr]; rfl⟩
  | sendFails h => exact ⟨[_], r, rfl⟩
  | readFails h hl => exact ⟨[_], _, rfl⟩
  | @validates crc o h ho =>
    have hq : ({ r with crc := crc }.ended o).lastErr = o := EsRegs.ended_lastErr herr o
    exact ⟨[], { r with crc := crc }, by rw [hq]; rfl⟩

/-- The codes of R84 and R211 agree with those of `LAST_ERR` (R28), in one more bit. -/
theorem Status.code_ofOutcome (o : LastErr) : (Status.ofOutcome o).code = o.code.setWidth 3 := by
  cases o <;> rfl

/-- Settles O36: a transaction in flight has `LAST_ERR` clear, so its completing step delivers the class that
the register then holds. -/
theorem resultAgreesWithLastErr : Obligations.ResultAgreesWithLastErr := by
  rintro s ⟨-, hclear, -, -⟩ hf hf'
  obtain ⟨l, hl, ht⟩ := esStep_acts s
  obtain ⟨l', q, rfl⟩ := ht.completes (hclear hf) hf hf'
  rw [← List.append_assoc] at hl
  have hstatus := resultOf_status s.cfg q s.esStep.es.lastErr
  exact ⟨_, lastResult_of_hist hl, hstatus, by rw [hstatus, Status.code_ofOutcome]⟩

/-! Every step of the block. -/

/-- No step changes a parameter: reset keeps them, and so does every transition of a unit (R14, R250). -/
theorem step_cfg {s t : State} (h : step s = .next t) : t.cfg = s.cfg := by
  cases hr : s.env.resetPin with
  | true =>
    rw [step_of_reset hr] at h
    cases h
    rfl
  | false => exact (step_trans hr h).1

/-- Settles O53: a step only adds events (`step_adds`), and keeps the parameters. -/
theorem historyOnlyGrows : Obligations.HistoryOnlyGrows := by
  intro s t h
  obtain ⟨l, hl, -⟩ := step_adds h
  exact ⟨⟨l, hl.symm⟩, step_cfg h⟩

/-- A ready unit for which the host has no request has nothing to do (R237). -/
theorem State.canMove_of_ready {s : State} {u : UnitId} (hr : s.ready u = true)
    (hi : s.inbox u = []) : s.canMove u = false := by
  simp [State.canMove, State.presented, hr, hi]

/-- Settles O9: neither unit can move, so the block waits. -/
theorem idleBlockHolds : Obligations.IdleBlockHolds := by
  intro s hr hrf hes hrfInbox hesInbox
  have hmrf : s.canMove .rf = false :=
    State.canMove_of_ready (by simp [State.ready, State.rfReady, hrf]) hrfInbox
  have hmes : s.canMove .es = false :=
    State.canMove_of_ready (by simp [State.ready, State.esReady, hes]) hesInbox
  have hm : s.mover = none := by simp [State.mover, hmrf, hmes]
  simp [step, runBlock, hr, hm]

/-- Settles O52: reset and waiting answer a next state, and a step of either unit is a function of the state
(`runRf_local`, `runEs_local`). -/
theorem blockNeverStops : Obligations.BlockNeverStops := by
  intro s
  obtain ⟨-, e⟩ | ⟨-, -, e⟩ | ⟨-, -, e⟩ | ⟨-, -, e⟩ := step_cases s <;> rw [e]
  · exact ⟨_, rfl⟩
  · obtain ⟨f, -, hrun⟩ := runRf_local
    exact ⟨_, hrun s.spendTurn⟩
  · obtain ⟨g, -, hrun⟩ := runEs_local
    exact ⟨_, hrun s.spendTurn⟩
  · exact ⟨_, rfl⟩

end Sys2Proof.Machine
end

section
/-! Reset with operations in flight (`70_reset_and_hazards.md`, R250 and R252). -/

namespace Sys2Proof.Machine

/-- Settles O2: reset is taken first (`step_of_reset`), and the registers it leaves are those of the reset
state of the same configuration, whose values are O1's (`resetRegisters`). -/
theorem resetAbandonsOperations : Obligations.ResetAbandonsOperations := by
  intro s hr
  obtain ⟨hfsm, hcntRun, hstartV, hendV, htrig, hesFsm, hlastErr, hdeltaT, hdeltaH, -⟩ :=
    resetRegisters s.cfg
  exact ⟨s.applyReset, step_of_reset hr, s.applyReset_hist, s.applyReset_cfg,
    hfsm, hcntRun, hstartV, hendV, htrig, hesFsm, hlastErr, hdeltaT, hdeltaH⟩

end Sys2Proof.Machine
end
